-- ==== Sys2Proof/Word.lean ====
section
/-! DEFINITION. The word types of the block (R10): bytes, 16-bit words, the fields of an instruction word, and the
numbers that select a register or a key. -/

namespace Sys2Proof

/-- u8: a general register, a timer, a byte of memory (R10, R13, R20, R29). -/
abbrev Byte := BitVec 8

/-- u16: an instruction word, `I`, `pc`, a return address (R10, R17, R18, R19). -/
abbrev Word := BitVec 16

/-- The 12-bit field `nnn` (R43). -/
abbrev Addr := BitVec 12

/-- A 4-bit field: `opcode`, `n`, or bits that an instruction ignores (R43, R46). -/
abbrev Nibble := BitVec 4

/-- The number of a general register, V0 to VF (R13). -/
abbrev Reg := Fin 16

/-- A key code, 0x0 to 0xF (R25). -/
abbrev Key := Fin 16

/-- A column of the display, 0 to 63 (R23). -/
abbrev Col := Fin 64

/-- A row of the display, 0 to 31 (R23). -/
abbrev Row := Fin 32

/-- `VF`, the flag register V[0xF] (R15). -/
abbrev VF : Reg := 15

end Sys2Proof
end

