-- ==== Sys2Proof/Config.lean ====
section
/-! DEFINITION. What an implementation fixes (the parameters of R5 that State carries in its field `params`) and the free values
that the spec leaves open (opaque constants, with no body). -/

namespace Sys2Proof

/-- VF_READ (R67, D9): what a flag-writing instruction reads from a register after it has written the flag. -/
inductive VfRead where
  /-- each read gives the register's latest value -/
  | sequential
  /-- each read gives the value held when the handler started -/
  | snapshot
  deriving DecidableEq, Repr

/-- SHL_FLAG_BIT (R78, D10): the bit of `V[x]` that 8xyE writes to `VF`. -/
inductive ShlFlagBit where
  | bit7
  | bit3
  deriving DecidableEq, Repr

/-- The parameters that the spec gives two values each, fixed for one machine (log 5). -/
structure Params where
  vfRead     : VfRead
  shlFlagBit : ShlFlagBit
  deriving DecidableEq, Repr

/-- The defaults of R5: `sequential` and 7. -/
def Params.default : Params := { vfRead := .sequential, shlFlagBit := .bit7 }

/-- FREE VALUE (R79, D11, D30; log 9): the byte that the `k`-th random draw of the machine gives. Nothing constrains it. -/
opaque Config.randomDraw (k : Nat) : Byte

/-- FREE VALUE (R90, D12; log 8): which of the held keys, given as one Boolean per key code, the parameter pick_key chooses, as a
place in their list taken modulo its length. Nothing constrains it. -/
opaque Config.pickRank (keys : Vector Bool 16) : Nat

end Sys2Proof
end

