-- ==== Sys2Proof/Machine/State.lean ====
section
/-! DEFINITION. The state of the block (10_state.md, R13-R28), as plain data, and its value right after power-on (R119). -/

namespace Sys2Proof.Machine

/-- The fault causes of the block (R101). Taking one is a NEXT state with the fault recorded in `State.fault` (R104: "the Cycle
returns normally to the driver"); `step` never answers `Host.Outcome.fault`. `State.verdict` (Safety.lean) turns a state with
a recorded fault into that outcome, as R56 asks. -/
inductive Fault where
  /-- raised by CALL (2nnn) with 16 frames held (R102, D6), recorded in `State.fault`. Safe: the machine halts where the source
  leaves the behaviour undefined. -/
  | stackOverflow
  /-- raised by RET (00EE) with no frame held (R103, D7), recorded in `State.fault`. Safe: the machine halts where the source
  leaves the behaviour undefined. -/
  | stackUnderflow
  deriving DecidableEq, Repr

/-- Why the model would have no meaning for an instruction. -/
inductive Refusal where
  /-- raised by an arm of `exec` for an instruction with no meaning yet, named by its mnemonic; no arm raises it. Safe: the model
  stops where the hardware goes on. -/
  | notModelled (mnemonic : String)
  deriving DecidableEq, Repr

/-- The record of a fault: its cause, the address the faulting instruction was fetched from, and its word (R26, R104). -/
structure FaultRecord where
  cause : Fault
  pc    : Word
  word  : Word
  deriving DecidableEq, Repr

/-- The input transactions of the host that act on the state (R6). `Disassemble` is the other one: it has no state (R94). -/
inductive Transaction where
  | loadProgram (program : List Byte)
  | cycle
  | tick
  | keyDown (k : Key)
  | keyUp (k : Key)
  | startTimer
  | stopTimer
  deriving DecidableEq, Repr

/-- Memory as the cells that differ from their power-on contents, in rising order of address (canonical form: `Memory.wf`). -/
abbrev Memory := List Host.Cell

/-- The state of the block. The last three fields are the model's own (INVENTORY.md): the parameters, which no step changes, the count
of random draws, and the schedule of the host's transactions. -/
structure State where
  /-- the general registers V0 to VF (R13) -/
  v            : Vector Byte 16
  /-- the index register `I` (R17) -/
  i            : Word
  /-- the program counter (R18) -/
  pc           : Word
  /-- the return stack: its `depth` entries, `stack[0]` first (R19) -/
  stack        : List Word
  /-- the delay timer DT (R20) -/
  dt           : Byte
  /-- the sound timer ST (R20) -/
  st           : Byte
  /-- timer_running (R21) -/
  timerRunning : Bool
  /-- the display buffer, `disp[c][r]` for column c and row r (R23) -/
  disp         : Vector (Vector Bool 32) 64
  /-- should_redraw (R24) -/
  shouldRedraw : Bool
  /-- the pressed-key set, one Boolean per key code (R25) -/
  keys         : Vector Bool 16
  /-- the fault status (R26) -/
  fault        : Option FaultRecord
  /-- memory (R29) -/
  mem          : Memory
  /-- VF_READ and SHL_FLAG_BIT (R67, R78; log 5) -/
  params       : Params
  /-- how many random draws have been taken (R79; log 9) -/
  draws        : Nat
  /-- the host's transactions still to be taken, oldest first; when there is none the host issues Cycle (R8, R39; log 1) -/
  inputs       : List Transaction
  deriving DecidableEq, Repr

/-- The block right after power-on (R119): memory lists nothing, so that every byte reads as its power-on contents (R33). The model's
own fields hold the default parameters, no draw taken and no transaction waiting (log 4). -/
def State.reset : State where
  v            := Vector.replicate 16 0
  i            := 0
  pc           := 0x200
  stack        := []
  dt           := 0
  st           := 0
  timerRunning := false
  disp         := Vector.replicate 64 (Vector.replicate 32 false)
  shouldRedraw := false
  keys         := Vector.replicate 16 false
  fault        := none
  mem          := []
  params       := Params.default
  draws        := 0
  inputs       := []

end Sys2Proof.Machine
end

