-- ==== Sys2Proof/Machine/Ops.lean ====
section
/-! DEFINITION. The named operations over memory, registers, stack, display, keys and fault status. Every access of a meaning or of
a host transaction to these goes through here. -/

namespace Sys2Proof.Machine

/-! ## Memory (R29-R37) -/

/-- MEM_SIZE (R5, R29). -/
abbrev memSize : Nat := 4096

/-- FONT_BASE (R5, R30). -/
abbrev fontBase : Nat := 0x050

/-- PROG_BASE (R5, R30). -/
abbrev progBase : Nat := 0x200

/-- PROG_MAX_LEN (R5, R120). -/
abbrev progMaxLen : Nat := 0xE00

/-- FONT_ROM, the default table of R31: 16 glyphs of 5 bytes (D17; log 7). -/
def fontRom : List Byte :=
  [0xF0, 0x90, 0x90, 0x90, 0xF0] ++ [0x20, 0x60, 0x20, 0x20, 0x70] ++ [0xF0, 0x10, 0xF0, 0x80, 0xF0] ++
  [0xF0, 0x10, 0xF0, 0x10, 0xF0] ++ [0x90, 0x90, 0xF0, 0x10, 0x10] ++ [0xF0, 0x80, 0xF0, 0x10, 0xF0] ++
  [0xF0, 0x80, 0xF0, 0x90, 0xF0] ++ [0xF0, 0x10, 0x20, 0x40, 0x40] ++ [0xF0, 0x90, 0xF0, 0x90, 0xF0] ++
  [0xF0, 0x90, 0xF0, 0x10, 0xF0] ++ [0xF0, 0x90, 0xF0, 0x90, 0x90] ++ [0xE0, 0x90, 0xE0, 0x90, 0xE0] ++
  [0xF0, 0x80, 0x80, 0x80, 0xF0] ++ [0xE0, 0x90, 0x90, 0x90, 0xE0] ++ [0xF0, 0x80, 0xF0, 0x80, 0xF0] ++
  [0xF0, 0x80, 0xF0, 0x80, 0x80]

/-- What an address that memory does not list reads as: the power-on contents, FONT_ROM at 0x050-0x09F and 0 elsewhere (R33). -/
def powerOnByte (a : Nat) : Byte :=
  if a < fontBase then 0 else fontRom.getD (a - fontBase) 0

/-- The byte at a cell address (below 4096). -/
def Memory.lookup : Memory → Nat → Byte
  | [], a => powerOnByte a
  | (b, w) :: m, a => if a = b then w else Memory.lookup m a

/-- Put a cell in its place among cells in rising order. -/
def Memory.insertCell (c : Host.Cell) : Memory → Memory
  | [] => [c]
  | d :: m => if c.1 < d.1 then c :: d :: m else d :: Memory.insertCell c m

/-- Set the byte at a cell address (below 4096), keeping the canonical form. -/
def Memory.set (m : Memory) (a : Nat) (b : Byte) : Memory :=
  if b = powerOnByte a then m.filter (fun c => c.1 ≠ a)
  else Memory.insertCell (a, b) (m.filter (fun c => c.1 ≠ a))

/-- `MemRead(a, 1)` for any natural `a`: the address is taken modulo 4096 (R12, R34). -/
def Memory.read (m : Memory) (a : Nat) : Byte := Memory.lookup m (a % memSize)

/-- `MemWrite(a, 1, b)` for any natural `a` (R12, R34). -/
def Memory.write (m : Memory) (a : Nat) (b : Byte) : Memory := Memory.set m (a % memSize) b

/-- The addresses of the cells rise strictly. -/
def Memory.rising : Memory → Bool
  | [] => true
  | [_] => true
  | c :: d :: m => decide (c.1 < d.1) && Memory.rising (d :: m)

/-- The canonical form: addresses strictly rising, inside the address space, and no cell equal to its power-on contents. -/
def Memory.wf (m : Memory) : Bool :=
  Memory.rising m && m.all (fun c => decide (c.1 < memSize) && c.2 != powerOnByte c.1)

/-- The cells of a run of bytes from address `a` on, less those equal to their power-on contents. -/
def Memory.cellsFrom (a : Nat) : List Byte → Memory
  | [] => []
  | b :: bs => if b = powerOnByte a then Memory.cellsFrom (a + 1) bs else (a, b) :: Memory.cellsFrom (a + 1) bs

/-- LoadProgram's memory (R120): 0x000-0x1FF kept, 0x200-0xFFF cleared to zero, then at most 0xE00 bytes of the program copied to
0x200 on. -/
def Memory.load (m : Memory) (program : List Byte) : Memory :=
  m.filter (fun c => c.1 < progBase) ++ Memory.cellsFrom progBase (program.take progMaxLen)

/-- `MemRead(a, 1)` (R12). -/
def State.readMem (s : State) (a : Nat) : Byte := s.mem.read a

/-- `MemWrite(a, 1, b)` (R12). -/
def State.writeMem (s : State) (a : Nat) (b : Byte) : State := { s with mem := s.mem.write a b }

/-! ## Registers (R13-R20) -/

/-- Read `V[x]` (R11). -/
def State.getV (s : State) (x : Reg) : Byte := s.v[x]

/-- `V[x] <- b` (R11). -/
def State.setV (s : State) (x : Reg) (b : Byte) : State := { s with v := s.v.set x.val b }

/-- `I <- w` (R11). -/
def State.setI (s : State) (w : Word) : State := { s with i := w }

/-- `pc <- target`, truncated to 16 bits by its type (R12, R18). -/
def State.setPc (s : State) (w : Word) : State := { s with pc := w }

/-- `DT <- b` (R20). -/
def State.setDt (s : State) (b : Byte) : State := { s with dt := b }

/-- `ST <- b` (R20). -/
def State.setSt (s : State) (b : Byte) : State := { s with st := b }

/-- `should_redraw <- b` (R24). -/
def State.setRedraw (s : State) (b : Bool) : State := { s with shouldRedraw := b }

/-- timer_running <- b (R21). -/
def State.setTimerRunning (s : State) (b : Bool) : State := { s with timerRunning := b }

/-- `Skip()` (R53). -/
def State.skip (s : State) : State := s.setPc (s.pc + 2)

/-- `if c: Skip()`, the form of the six skip instructions (R53). -/
def State.skipIf (s : State) (c : Bool) : State := if c then s.skip else s

/-! ## Return stack (R19, R54) -/

/-- STACK_DEPTH (R5, R19). -/
abbrev stackDepth : Nat := 16

/-- `depth` (R19). -/
def State.depth (s : State) : Nat := s.stack.length

/-- `Push(w)`: none when 16 frames are held (R54). -/
def State.push (s : State) (w : Word) : Option State :=
  if s.depth < stackDepth then some { s with stack := s.stack ++ [w] } else none

/-- `Pop()`: the last frame pushed and the state without it; none when no frame is held (R54). -/
def State.pop (s : State) : Option (Word × State) :=
  match s.stack.getLast? with
  | some w => some (w, { s with stack := s.stack.dropLast })
  | none => none

/-! ## Taking a fault (R101-R106) -/

/-- The address the running instruction was fetched from: during a handler `pc` is `trunc_16(a + 2)` (R18, R50). -/
def State.fetchAddr (s : State) : Word := s.pc - 2

/-- `raise Fault(cause)` in the handler of an instruction of word `w`: pc <- a, fault <- (cause, a, w), and nothing else (R104).
There is no return from a fault: LoadProgram alone clears it (R105, `State.loadProgram`). -/
def State.raise (s : State) (cause : Fault) (w : Word) : State :=
  { s with pc := s.fetchAddr, fault := some { cause := cause, pc := s.fetchAddr, word := w } }

/-- The code of a fault cause (R101). -/
def Fault.code : Fault → Nat
  | .stackOverflow => 1
  | .stackUnderflow => 2

/-! ## Display (R23, R24) -/

/-- `disp[c][r]` (R23). -/
def State.pixel (s : State) (c : Col) (r : Row) : Bool := s.disp[c][r]

/-- `disp[c][r] <- b` (R23). -/
def State.setPixel (s : State) (c : Col) (r : Row) (b : Bool) : State :=
  { s with disp := s.disp.set c.val (s.disp[c].set r.val b) }

/-- Some pixel is set (R86). -/
def State.anyPixel (s : State) : Bool := s.disp.toList.any (fun col => col.toList.any id)

/-- Every pixel false (R86, R120). -/
def State.clearDisplay (s : State) : State := { s with disp := Vector.replicate 64 (Vector.replicate 32 false) }

/-! ## Keys (R25, R88-R90, R113) -/

/-- Key `k` is held (R25). -/
def State.held (s : State) (k : Key) : Bool := s.keys[k]

/-- Key `k` enters or leaves the set (R113). -/
def State.setKey (s : State) (k : Key) (b : Bool) : State := { s with keys := s.keys.set k.val b }

/-- The keys of a set, lowest code first. -/
def heldKeys (keys : Vector Bool 16) : List Key := (List.finRange 16).filter (fun k => keys[k])

/-- pick_key (R90, D12): a member of the non-empty set, chosen by the free value `Config.pickRank` (log 8). It is asked of a non-empty
set only; 0 stands for the empty one. -/
def pickKey (keys : Vector Bool 16) : Key :=
  (heldKeys keys).getD (Config.pickRank keys % (heldKeys keys).length) 0

/-! ## Random draws (R79) -/

/-- `RandomDraw()`: a fresh free byte, and the state in which the next draw is another one (R12, R79; log 9). -/
def State.randomDraw (s : State) : Byte × State := (Config.randomDraw s.draws, { s with draws := s.draws + 1 })

/-! ## Queries (R7, R27, R112) -/

/-- ShouldBeep (R22, R112). -/
def State.shouldBeep (s : State) : Bool := s.st != 0

/-- The outputs of the block: the queries of R7, with the timer_running that R27 names beside should_redraw and fault
and R7's list lacks (DEDUCED, log 19). -/
structure Outputs where
  displayBuffer  : Vector (Vector Bool 32) 64
  shouldRedraw   : Bool
  shouldBeep     : Bool
  programCounter : Word
  registers      : Vector Byte 16
  index          : Word
  delayTimer     : Byte
  soundTimer     : Byte
  timerRunning   : Bool
  faultStatus    : Option FaultRecord
  deriving DecidableEq, Repr

/-- The queries of R7 and R27, all at once: read-only views of the state. -/
def State.outputs (s : State) : Outputs where
  displayBuffer  := s.disp
  shouldRedraw   := s.shouldRedraw
  shouldBeep     := s.shouldBeep
  programCounter := s.pc
  registers      := s.v
  index          := s.i
  delayTimer     := s.dt
  soundTimer     := s.st
  timerRunning   := s.timerRunning
  faultStatus    := s.fault

end Sys2Proof.Machine
end

