-- ==== Sys2Proof/Machine/Operands.lean ====
section
/-! DEFINITION. The operand forms: zero-extended immediates (R44), the address `I + k` (R34, R37), the registers `V[0]` to `V[x]`
(R84, R85), key codes (R88-R90), display coordinates (R87), decimal digits (R83), font addresses (R82). -/

namespace Sys2Proof.Machine

/-- `zext_16(nnn)` (R44). -/
def zextAddr (nnn : Addr) : Word := nnn.setWidth 16

/-- A byte at the width of `I` or `pc` (R10: `zext_16`). -/
def zextByte (b : Byte) : Word := b.setWidth 16

/-- The address `I + k` of a memory transfer, a natural number that the access takes modulo 4096 (R34). -/
def State.indexAddr (s : State) (k : Nat) : Nat := s.i.toNat + k

/-- `V[0]` to `V[x]`, `V[0]` first, `V[x]` included (R84, R85, D15). -/
def regsUpTo (x : Reg) : List Reg := (List.finRange 16).take (x.val + 1)

/-- `b in keys`: the register is not masked, so a value above 0x0F is in no key set (R88, D13). -/
def State.keyPressed (s : State) (b : Byte) : Bool :=
  if h : b.toNat < 16 then s.held ⟨b.toNat, h⟩ else false

/-- The key code as the byte that Fx0A writes (R90). -/
def keyByte (k : Key) : Byte := BitVec.ofNat 8 k.val

/-- `(b + k) mod 64`: positions wrap, never clip (R87). -/
def colAt (b : Byte) (k : Nat) : Col := ⟨(b.toNat + k) % 64, Nat.mod_lt _ (by decide)⟩

/-- `(b + row) mod 32` (R87). -/
def rowAt (b : Byte) (row : Nat) : Row := ⟨(b.toNat + row) % 32, Nat.mod_lt _ (by decide)⟩

/-- The digits of a byte: `v div 100`, `(v div 10) mod 10`, `v mod 10`, exact division of naturals (R66, R83). -/
def hundreds (b : Byte) : Byte := BitVec.ofNat 8 (b.toNat / 100)
/-- The tens digit (R83). -/
def tens (b : Byte) : Byte := BitVec.ofNat 8 (b.toNat / 10 % 10)
/-- The ones digit (R83). -/
def ones (b : Byte) : Byte := BitVec.ofNat 8 (b.toNat % 10)

/-- `b * 5 + FONT_BASE`, not masked to a nibble (R82). -/
def glyphAddr (b : Byte) : Word := BitVec.ofNat 16 (b.toNat * 5 + fontBase)

end Sys2Proof.Machine
end

