-- ==== Sys2Proof/Machine/Flags.lean ====
section
/-! DEFINITION. The flags: every value written to VF besides ordinary results (R15), and the order of flag and destination writes (R67). -/

namespace Sys2Proof.Machine

/-- A boolean written to an 8-bit register is 1 for true and 0 for false (R10). -/
def flagByte (b : Bool) : Byte := if b then 1 else 0

/-- `VF <- b` (R15). -/
def State.setFlag (s : State) (b : Bool) : State := s.setV VF (flagByte b)

/-- The carry of an addition: the exact sum is above 255 (R66, R74). -/
def carryFlag (a b : Byte) : Bool := decide (a.toNat + b.toNat > 255)

/-- The flag of a subtraction: strictly greater, unsigned (R75, R76). -/
def greaterFlag (a b : Byte) : Bool := decide (a.toNat > b.toNat)

/-- The flag of a right shift: bit 0, the bit shifted out (R77). -/
def shrFlag (a : Byte) : Bool := a.getLsbD 0

/-- SHL_FLAG_BIT as a bit number (R78, D10). -/
def shlFlagIndex : ShlFlagBit → Nat
  | .bit7 => 7
  | .bit3 => 3

/-- The flag of a left shift: bit SHL_FLAG_BIT (R78). -/
def shlFlag (p : ShlFlagBit) (a : Byte) : Bool := a.getLsbD (shlFlagIndex p)

/-- What a read of `V[x]` gives after the flag write, `old` being what `V[x]` held when the handler started (R67). -/
def State.readAfterFlag (s : State) (x : Reg) (old : Byte) : Byte :=
  match s.params.vfRead with
  | .sequential => s.getV x
  | .snapshot => old

/-- The common form of 8xy4, 8xy5, 8xy6, 8xy7 and 8xyE: `VF <- flag`, the flag being of the values held at the start, then
`V[x] <- op V[x] V[y]` with the reads of R67. -/
def State.flagged (s : State) (x y : Reg) (flag : Bool) (op : Byte → Byte → Byte) : State :=
  (s.setFlag flag).setV x
    (op ((s.setFlag flag).readAfterFlag x (s.getV x)) ((s.setFlag flag).readAfterFlag y (s.getV y)))

end Sys2Proof.Machine
end

