-- ==== Sys2Proof/Machine/Alu.lean ====
section
/-! DEFINITION. Register loads and the ALU (42_alu.md). -/

namespace Sys2Proof.Machine

/-- 6xnn (R68). -/
def execLdImm (x : Reg) (nn : Byte) (s : State) : Host.Outcome State Fault Refusal :=
  .next (s.setV x nn)

/-- 7xnn (R69): wraps modulo 256, writes no flag. -/
def execAddImm (x : Reg) (nn : Byte) (s : State) : Host.Outcome State Fault Refusal :=
  .next (s.setV x (s.getV x + nn))

/-- 8xy0 (R70). -/
def execLdReg (x y : Reg) (s : State) : Host.Outcome State Fault Refusal :=
  .next (s.setV x (s.getV y))

/-- 8xy1 (R71). -/
def execOrReg (x y : Reg) (s : State) : Host.Outcome State Fault Refusal :=
  .next (s.setV x (s.getV x ||| s.getV y))

/-- 8xy2 (R72). -/
def execAndReg (x y : Reg) (s : State) : Host.Outcome State Fault Refusal :=
  .next (s.setV x (s.getV x &&& s.getV y))

/-- 8xy3 (R73). -/
def execXorReg (x y : Reg) (s : State) : Host.Outcome State Fault Refusal :=
  .next (s.setV x (s.getV x ^^^ s.getV y))

/-- 8xy4 (R74). -/
def execAddReg (x y : Reg) (s : State) : Host.Outcome State Fault Refusal :=
  .next (s.flagged x y (carryFlag (s.getV x) (s.getV y)) (fun a b => a + b))

/-- 8xy5 (R75). -/
def execSubReg (x y : Reg) (s : State) : Host.Outcome State Fault Refusal :=
  .next (s.flagged x y (greaterFlag (s.getV x) (s.getV y)) (fun a b => a - b))

/-- 8xy6 (R77): `V[y]` is not used. -/
def execShrReg (x y : Reg) (s : State) : Host.Outcome State Fault Refusal :=
  .next (s.flagged x y (shrFlag (s.getV x)) (fun a _ => a >>> 1))

/-- 8xy7 (R76). -/
def execSubnReg (x y : Reg) (s : State) : Host.Outcome State Fault Refusal :=
  .next (s.flagged x y (greaterFlag (s.getV y) (s.getV x)) (fun a b => b - a))

/-- 8xyE (R78): `V[y]` is not used. -/
def execShlReg (x y : Reg) (s : State) : Host.Outcome State Fault Refusal :=
  .next (s.flagged x y (shlFlag s.params.shlFlagBit (s.getV x)) (fun a _ => a <<< 1))

/-- Cxnn (R79): a fresh draw, masked. -/
def execRnd (x : Reg) (nn : Byte) (s : State) : Host.Outcome State Fault Refusal :=
  .next (s.randomDraw.2.setV x (s.randomDraw.1 &&& nn))

end Sys2Proof.Machine
end

