-- ==== Sys2Proof/Machine/Display.lean ====
section
/-! DEFINITION. The display instructions (44_display.md). -/

namespace Sys2Proof.Machine

/-- 00E0 (R86): clear; a clear that changes a pixel sets should_redraw (D16). -/
def execCls (s : State) : Host.Outcome State Fault Refusal :=
  .next (if s.anyPixel then s.clearDisplay.setRedraw true else s.clearDisplay)

/-- Write pixel (c, r), which held `old`: should_redraw is set when it flips, `VF` is 1 when it goes from set to unset (R87). -/
def State.plot (s : State) (c : Col) (r : Row) (old new : Bool) : State :=
  let drawn := s.setPixel c r new
  let shown := if new != old then drawn.setRedraw true else drawn
  if old && !new then shown.setFlag true else shown

/-- XOR a sprite bit into pixel (c, r) (R87). -/
def State.xorPixel (s : State) (c : Col) (r : Row) (bit : Bool) : State :=
  s.plot c r (s.pixel c r) (s.pixel c r ^^ bit)

/-- Bit `k` of sprite row `row`, the most significant bit first: `b[7 - k]` of `b := MemRead(I + row, 1)` (R87). -/
def State.spriteBit (s : State) (row k : Nat) : Bool := (s.readMem (s.indexAddr row)).getLsbD (7 - k)

/-- The body of R87's loops for one bit of one row: `vx` and `vy` are the values that `V[x]` and `V[y]` held when the handler
started, which VF_READ = snapshot reads (R67). -/
def State.drawBit (x y : Reg) (vx vy : Byte) (s : State) (p : Nat × Nat) : State :=
  s.xorPixel (colAt (s.readAfterFlag x vx) p.2) (rowAt (s.readAfterFlag y vy) p.1) (s.spriteBit p.1 p.2)

/-- The (row, bit) pairs of an n-row sprite in the order of R87's loops. -/
def spriteBits (n : Nat) : List (Nat × Nat) :=
  (List.range n).flatMap (fun row => (List.range 8).map (fun k => (row, k)))

/-- Dxyn (R87): `VF <- 0`, then every bit of every row. -/
def execDrw (x y : Reg) (n : Nibble) (s : State) : Host.Outcome State Fault Refusal :=
  .next ((spriteBits n.toNat).foldl (State.drawBit x y (s.getV x) (s.getV y)) (s.setFlag false))

end Sys2Proof.Machine
end

