-- ==== Sys2Proof/Syntax.lean ====
section
/-! DEFINITION. The instructions: one constructor per row of spec/opcode_table.json (R48), with the fields of R43.
A field that the instruction ignores (R46: bits 11-8 of `Z0`, bits 3-0 of `XY`) is kept under the name `u`, so that an
instruction is exactly its word: a fault records the word (R104), ignored bits and all. -/

namespace Sys2Proof

/-- The six overlapping fields that the decoder takes out of every word (R43). -/
structure Fields where
  opcode : Nibble
  x      : Nibble
  y      : Nibble
  nnn    : Addr
  nn     : Byte
  n      : Nibble
  deriving DecidableEq, Repr

/-- The 34 instructions, in the order of the opcode map (R48). -/
inductive Instr where
  /-- 00E0 `CLS` (R86); `u` is ignored. -/
  | cls (u : Nibble)
  /-- 00EE `RET` (R58); `u` is ignored. -/
  | ret (u : Nibble)
  /-- 1nnn `JP nnn` (R59). -/
  | jp (nnn : Addr)
  /-- 2nnn `CALL nnn` (R60). -/
  | call (nnn : Addr)
  /-- 3xnn `SE Vx, nn` (R62). -/
  | seImm (x : Reg) (nn : Byte)
  /-- 4xnn `SNE Vx, nn` (R63). -/
  | sneImm (x : Reg) (nn : Byte)
  /-- 5xyn `SE Vx, Vy` (R64); `u` is ignored. -/
  | seReg (x y : Reg) (u : Nibble)
  /-- 6xnn `LD Vx, nn` (R68). -/
  | ldImm (x : Reg) (nn : Byte)
  /-- 7xnn `ADD Vx, nn` (R69). -/
  | addImm (x : Reg) (nn : Byte)
  /-- 8xy0 `LD Vx, Vy` (R70). -/
  | ldReg (x y : Reg)
  /-- 8xy1 `OR Vx, Vy` (R71). -/
  | orReg (x y : Reg)
  /-- 8xy2 `AND Vx, Vy` (R72). -/
  | andReg (x y : Reg)
  /-- 8xy3 `XOR Vx, Vy` (R73). -/
  | xorReg (x y : Reg)
  /-- 8xy4 `ADD Vx, Vy` (R74). -/
  | addReg (x y : Reg)
  /-- 8xy5 `SUB Vx, Vy` (R75). -/
  | subReg (x y : Reg)
  /-- 8xy6 `SHR Vx, Vy` (R77); `y` is decoded and not read. -/
  | shrReg (x y : Reg)
  /-- 8xy7 `SUBN Vx, Vy` (R76). -/
  | subnReg (x y : Reg)
  /-- 8xyE `SHL Vx, Vy` (R78); `y` is decoded and not read. -/
  | shlReg (x y : Reg)
  /-- 9xyn `SNE Vx, Vy` (R65); `u` is ignored. -/
  | sneReg (x y : Reg) (u : Nibble)
  /-- Annn `LD I, nnn` (R80). -/
  | ldI (nnn : Addr)
  /-- Bnnn `JP V0, nnn` (R61). -/
  | jpV0 (nnn : Addr)
  /-- Cxnn `RND Vx, nn` (R79). -/
  | rnd (x : Reg) (nn : Byte)
  /-- Dxyn `DRW Vx, Vy, n` (R87). -/
  | drw (x y : Reg) (n : Nibble)
  /-- Ex9E `SKP Vx` (R88). -/
  | skp (x : Reg)
  /-- ExA1 `SKNP Vx` (R89). -/
  | sknp (x : Reg)
  /-- Fx07 `LD Vx, DT` (R91). -/
  | ldVxDt (x : Reg)
  /-- Fx0A `LD Vx, K` (R90). -/
  | ldVxK (x : Reg)
  /-- Fx15 `LD DT, Vx` (R92). -/
  | ldDtVx (x : Reg)
  /-- Fx18 `LD ST, Vx` (R93). -/
  | ldStVx (x : Reg)
  /-- Fx1E `ADD I, Vx` (R81). -/
  | addIVx (x : Reg)
  /-- Fx29 `LD F, Vx` (R82). -/
  | ldFVx (x : Reg)
  /-- Fx33 `LD B, Vx` (R83). -/
  | ldBVx (x : Reg)
  /-- Fx55 `LD [I], Vx` (R84). -/
  | ldMemVx (x : Reg)
  /-- Fx65 `LD Vx, [I]` (R85). -/
  | ldVxMem (x : Reg)
  deriving DecidableEq, Repr

end Sys2Proof
end

