-- ==== Sys2Proof/WellFormed.lean ====
section
/-! DEFINITION. The checks on syntax. Every operand of `Instr` has exactly the values of its field (R43, R44: a register is a
`Fin 16`, an immediate a bit vector of the field's width), so every term of `Instr` is a well-formed instruction and needs no
check: each is the reading of exactly one word. Two checks are left: that six fields can come from ONE word (R43: they
overlap), and that an instruction is spelled as the opcode table spells it, with its ignored bits 0 (R46). The machine runs an
instruction whether or not it passes the second check. -/

namespace Sys2Proof

/-- `nnn` is `x ++ nn` and `nn` is `y ++ n` (R43: "The fields overlap"): the six fields are those of one word. -/
def Fields.wellFormed (f : Fields) : Bool :=
  f.nnn == f.x ++ f.nn && f.nn == f.y ++ f.n

/-- The ignored bits are 0: the word is one that assembler text stands for (R46, R97). -/
def Instr.isCanonical : Instr → Bool
  | .cls u => u == 0
  | .ret u => u == 0
  | .seReg _ _ u => u == 0
  | .sneReg _ _ u => u == 0
  | .jp _ => true
  | .call _ => true
  | .seImm _ _ => true
  | .sneImm _ _ => true
  | .ldImm _ _ => true
  | .addImm _ _ => true
  | .ldReg _ _ => true
  | .orReg _ _ => true
  | .andReg _ _ => true
  | .xorReg _ _ => true
  | .addReg _ _ => true
  | .subReg _ _ => true
  | .shrReg _ _ => true
  | .subnReg _ _ => true
  | .shlReg _ _ => true
  | .ldI _ => true
  | .jpV0 _ => true
  | .rnd _ _ => true
  | .drw _ _ _ => true
  | .skp _ => true
  | .sknp _ => true
  | .ldVxDt _ => true
  | .ldVxK _ => true
  | .ldDtVx _ => true
  | .ldStVx _ => true
  | .addIVx _ => true
  | .ldFVx _ => true
  | .ldBVx _ => true
  | .ldMemVx _ => true
  | .ldVxMem _ => true

end Sys2Proof
end

