-- ==== Sys2Proof/Decode.lean ====
section
/-! DEFINITION. The decoder (R42-R49) and the encoder, each written from the spec's own tables: the decoder from the dispatch of R47,
the encoder from the formats of R46. `opcodeMap` is R48's map of masks and matches, a third transcription: the statements and tests
hold the three against each other. -/

namespace Sys2Proof

/-- The six fields of a word (R43). -/
def fieldsOf (w : Word) : Fields where
  opcode := w.extractLsb' 12 4
  x      := w.extractLsb' 8 4
  y      := w.extractLsb' 4 4
  nnn    := w.extractLsb' 0 12
  nn     := w.extractLsb' 0 8
  n      := w.extractLsb' 0 4

/-- The four groups that hold undefined words (R49). -/
inductive UndefinedGroup where
  | group0
  | group8
  | groupE
  | groupF
  deriving DecidableEq, Repr

/-- What a word decodes to (R45: "every 16-bit value decodes validly"): an instruction, or an undefined word, named by its group. -/
inductive Decoded where
  | instr (i : Instr)
  | undefined (g : UndefinedGroup)
  deriving DecidableEq, Repr

/-- Group 0x0, dispatched on `nn`; `x` is ignored (R47, C3). -/
def decodeGroup0 (f : Fields) : Decoded :=
  if f.nn = 0xE0#8 then .instr (.cls f.x)
  else if f.nn = 0xEE#8 then .instr (.ret f.x)
  else .undefined .group0

/-- Group 0x8, dispatched on `n` (R47). -/
def decodeGroup8 (f : Fields) : Decoded :=
  if f.n = 0x0#4 then .instr (.ldReg f.x.toFin f.y.toFin)
  else if f.n = 0x1#4 then .instr (.orReg f.x.toFin f.y.toFin)
  else if f.n = 0x2#4 then .instr (.andReg f.x.toFin f.y.toFin)
  else if f.n = 0x3#4 then .instr (.xorReg f.x.toFin f.y.toFin)
  else if f.n = 0x4#4 then .instr (.addReg f.x.toFin f.y.toFin)
  else if f.n = 0x5#4 then .instr (.subReg f.x.toFin f.y.toFin)
  else if f.n = 0x6#4 then .instr (.shrReg f.x.toFin f.y.toFin)
  else if f.n = 0x7#4 then .instr (.subnReg f.x.toFin f.y.toFin)
  else if f.n = 0xE#4 then .instr (.shlReg f.x.toFin f.y.toFin)
  else .undefined .group8

/-- Group 0xE, dispatched on `nn` (R47, C4). -/
def decodeGroupE (f : Fields) : Decoded :=
  if f.nn = 0x9E#8 then .instr (.skp f.x.toFin)
  else if f.nn = 0xA1#8 then .instr (.sknp f.x.toFin)
  else .undefined .groupE

/-- Group 0xF, dispatched on `nn` (R47). -/
def decodeGroupF (f : Fields) : Decoded :=
  if f.nn = 0x07#8 then .instr (.ldVxDt f.x.toFin)
  else if f.nn = 0x0A#8 then .instr (.ldVxK f.x.toFin)
  else if f.nn = 0x15#8 then .instr (.ldDtVx f.x.toFin)
  else if f.nn = 0x18#8 then .instr (.ldStVx f.x.toFin)
  else if f.nn = 0x1E#8 then .instr (.addIVx f.x.toFin)
  else if f.nn = 0x29#8 then .instr (.ldFVx f.x.toFin)
  else if f.nn = 0x33#8 then .instr (.ldBVx f.x.toFin)
  else if f.nn = 0x55#8 then .instr (.ldMemVx f.x.toFin)
  else if f.nn = 0x65#8 then .instr (.ldVxMem f.x.toFin)
  else .undefined .groupF

/-- Dispatch on `opcode` (R47). -/
def decodeFields (f : Fields) : Decoded :=
  if f.opcode = 0x0#4 then decodeGroup0 f
  else if f.opcode = 0x1#4 then .instr (.jp f.nnn)
  else if f.opcode = 0x2#4 then .instr (.call f.nnn)
  else if f.opcode = 0x3#4 then .instr (.seImm f.x.toFin f.nn)
  else if f.opcode = 0x4#4 then .instr (.sneImm f.x.toFin f.nn)
  else if f.opcode = 0x5#4 then .instr (.seReg f.x.toFin f.y.toFin f.n)
  else if f.opcode = 0x6#4 then .instr (.ldImm f.x.toFin f.nn)
  else if f.opcode = 0x7#4 then .instr (.addImm f.x.toFin f.nn)
  else if f.opcode = 0x8#4 then decodeGroup8 f
  else if f.opcode = 0x9#4 then .instr (.sneReg f.x.toFin f.y.toFin f.n)
  else if f.opcode = 0xA#4 then .instr (.ldI f.nnn)
  else if f.opcode = 0xB#4 then .instr (.jpV0 f.nnn)
  else if f.opcode = 0xC#4 then .instr (.rnd f.x.toFin f.nn)
  else if f.opcode = 0xD#4 then .instr (.drw f.x.toFin f.y.toFin f.n)
  else if f.opcode = 0xE#4 then decodeGroupE f
  else decodeGroupF f

/-- The decoder: a pure function of the word, shared by the VM core and the disassembler (R43, R45). -/
def decode (w : Word) : Decoded :=
  decodeFields (fieldsOf w)

/-- The word of two bytes, the high byte first (R35). -/
def wordOfBytes (hi lo : Byte) : Word := hi ++ lo

/-- The two bytes of a word as memory holds them, the one at the lower address first (R35, R42). -/
def bytesOfWord (w : Word) : Byte × Byte := (w.extractLsb' 8 8, w.extractLsb' 0 8)

/-- Why a list of bytes gives no instruction. -/
inductive DecodeError where
  /-- fewer than two bytes are left (R42, R95) -/
  | truncated
  /-- the word is undefined: the machine runs it as a no-op (R55) -/
  | undefinedWord (w : Word) (g : UndefinedGroup)
  deriving DecidableEq, Repr

/-- The reading of a list of bytes: the instruction at its front with the bytes after it, or why there is none. -/
inductive DecodedBytes where
  | instr (i : Instr) (rest : List Byte)
  | rejected (e : DecodeError)
  deriving DecidableEq, Repr

/-- Decoding on any bytes: total, rejecting by name. -/
def decodeBytes : List Byte → DecodedBytes
  | hi :: lo :: rest =>
    match decode (wordOfBytes hi lo) with
    | .instr i => .instr i rest
    | .undefined g => .rejected (.undefinedWord (wordOfBytes hi lo) g)
  | _ => .rejected .truncated

/-- A register number as the bits of its field. -/
def regBits (x : Reg) : Nibble := BitVec.ofFin x

/-- The formats `Z0`, `XNN` and `XS` of R46: `oooo xxxx nnnn nnnn` (or a subcode in the low byte). -/
def formatXNN (o x : Nibble) (nn : Byte) : Word := o ++ x ++ nn

/-- The format `A` of R46: `oooo nnnn nnnn nnnn`. -/
def formatA (o : Nibble) (nnn : Addr) : Word := o ++ nnn

/-- The formats `XY`, `XYS` and `XYN` of R46: `oooo xxxx yyyy nnnn`. -/
def formatXYN (o x y n : Nibble) : Word := o ++ x ++ y ++ n

/-- The word of an instruction, by the formats of R46 and the opcode map of R48. -/
def encode : Instr → Word
  | .cls u => formatXNN 0x0#4 u 0xE0#8
  | .ret u => formatXNN 0x0#4 u 0xEE#8
  | .jp nnn => formatA 0x1#4 nnn
  | .call nnn => formatA 0x2#4 nnn
  | .seImm x nn => formatXNN 0x3#4 (regBits x) nn
  | .sneImm x nn => formatXNN 0x4#4 (regBits x) nn
  | .seReg x y u => formatXYN 0x5#4 (regBits x) (regBits y) u
  | .ldImm x nn => formatXNN 0x6#4 (regBits x) nn
  | .addImm x nn => formatXNN 0x7#4 (regBits x) nn
  | .ldReg x y => formatXYN 0x8#4 (regBits x) (regBits y) 0x0#4
  | .orReg x y => formatXYN 0x8#4 (regBits x) (regBits y) 0x1#4
  | .andReg x y => formatXYN 0x8#4 (regBits x) (regBits y) 0x2#4
  | .xorReg x y => formatXYN 0x8#4 (regBits x) (regBits y) 0x3#4
  | .addReg x y => formatXYN 0x8#4 (regBits x) (regBits y) 0x4#4
  | .subReg x y => formatXYN 0x8#4 (regBits x) (regBits y) 0x5#4
  | .shrReg x y => formatXYN 0x8#4 (regBits x) (regBits y) 0x6#4
  | .subnReg x y => formatXYN 0x8#4 (regBits x) (regBits y) 0x7#4
  | .shlReg x y => formatXYN 0x8#4 (regBits x) (regBits y) 0xE#4
  | .sneReg x y u => formatXYN 0x9#4 (regBits x) (regBits y) u
  | .ldI nnn => formatA 0xA#4 nnn
  | .jpV0 nnn => formatA 0xB#4 nnn
  | .rnd x nn => formatXNN 0xC#4 (regBits x) nn
  | .drw x y n => formatXYN 0xD#4 (regBits x) (regBits y) n
  | .skp x => formatXNN 0xE#4 (regBits x) 0x9E#8
  | .sknp x => formatXNN 0xE#4 (regBits x) 0xA1#8
  | .ldVxDt x => formatXNN 0xF#4 (regBits x) 0x07#8
  | .ldVxK x => formatXNN 0xF#4 (regBits x) 0x0A#8
  | .ldDtVx x => formatXNN 0xF#4 (regBits x) 0x15#8
  | .ldStVx x => formatXNN 0xF#4 (regBits x) 0x18#8
  | .addIVx x => formatXNN 0xF#4 (regBits x) 0x1E#8
  | .ldFVx x => formatXNN 0xF#4 (regBits x) 0x29#8
  | .ldBVx x => formatXNN 0xF#4 (regBits x) 0x33#8
  | .ldMemVx x => formatXNN 0xF#4 (regBits x) 0x55#8
  | .ldVxMem x => formatXNN 0xF#4 (regBits x) 0x65#8

/-- The mask of an instruction's row in the opcode map (R48). -/
def rowMask : Instr → Word
  | .cls _ | .ret _ => 0xF0FF
  | .jp _ | .call _ | .ldI _ | .jpV0 _ => 0xF000
  | .seImm _ _ | .sneImm _ _ | .ldImm _ _ | .addImm _ _ | .rnd _ _ => 0xF000
  | .seReg _ _ _ | .sneReg _ _ _ | .drw _ _ _ => 0xF000
  | .ldReg _ _ | .orReg _ _ | .andReg _ _ | .xorReg _ _ | .addReg _ _ | .subReg _ _ | .shrReg _ _ | .subnReg _ _
  | .shlReg _ _ => 0xF00F
  | .skp _ | .sknp _ | .ldVxDt _ | .ldVxK _ | .ldDtVx _ | .ldStVx _ | .addIVx _ | .ldFVx _ | .ldBVx _ | .ldMemVx _
  | .ldVxMem _ => 0xF0FF

/-- The match value of an instruction's row in the opcode map (R48). -/
def rowMatch : Instr → Word
  | .cls _ => 0x00E0
  | .ret _ => 0x00EE
  | .jp _ => 0x1000
  | .call _ => 0x2000
  | .seImm _ _ => 0x3000
  | .sneImm _ _ => 0x4000
  | .seReg _ _ _ => 0x5000
  | .ldImm _ _ => 0x6000
  | .addImm _ _ => 0x7000
  | .ldReg _ _ => 0x8000
  | .orReg _ _ => 0x8001
  | .andReg _ _ => 0x8002
  | .xorReg _ _ => 0x8003
  | .addReg _ _ => 0x8004
  | .subReg _ _ => 0x8005
  | .shrReg _ _ => 0x8006
  | .subnReg _ _ => 0x8007
  | .shlReg _ _ => 0x800E
  | .sneReg _ _ _ => 0x9000
  | .ldI _ => 0xA000
  | .jpV0 _ => 0xB000
  | .rnd _ _ => 0xC000
  | .drw _ _ _ => 0xD000
  | .skp _ => 0xE09E
  | .sknp _ => 0xE0A1
  | .ldVxDt _ => 0xF007
  | .ldVxK _ => 0xF00A
  | .ldDtVx _ => 0xF015
  | .ldStVx _ => 0xF018
  | .addIVx _ => 0xF01E
  | .ldFVx _ => 0xF029
  | .ldBVx _ => 0xF033
  | .ldMemVx _ => 0xF055
  | .ldVxMem _ => 0xF065

/-- The masks and match values of the 34 rows of the opcode map, in its order (R48). -/
def opcodeMap : List (Word × Word) :=
  [(0xF0FF, 0x00E0), (0xF0FF, 0x00EE), (0xF000, 0x1000), (0xF000, 0x2000), (0xF000, 0x3000), (0xF000, 0x4000),
   (0xF000, 0x5000), (0xF000, 0x6000), (0xF000, 0x7000)] ++
  [(0xF00F, 0x8000), (0xF00F, 0x8001), (0xF00F, 0x8002), (0xF00F, 0x8003), (0xF00F, 0x8004), (0xF00F, 0x8005),
   (0xF00F, 0x8006), (0xF00F, 0x8007), (0xF00F, 0x800E)] ++
  [(0xF000, 0x9000), (0xF000, 0xA000), (0xF000, 0xB000), (0xF000, 0xC000), (0xF000, 0xD000)] ++
  [(0xF0FF, 0xE09E), (0xF0FF, 0xE0A1), (0xF0FF, 0xF007), (0xF0FF, 0xF00A), (0xF0FF, 0xF015), (0xF0FF, 0xF018),
   (0xF0FF, 0xF01E), (0xF0FF, 0xF029), (0xF0FF, 0xF033), (0xF0FF, 0xF055), (0xF0FF, 0xF065)]

/-- A word matches a row when `w & mask == match` (R48). -/
def matchesRow (w : Word) (row : Word × Word) : Bool := w &&& row.1 == row.2

/-- The word that the opcode table's number `w` of `nbits` bits stands for: bits above `nbits` are 0. -/
def tableWord (nbits w : Nat) : Word := BitVec.ofNat 16 (w % 2 ^ nbits)

/-- The instruction that the decoder reads from the bytes of the opcode table's word, laid out as memory holds them (R35). -/
def decodeTableWord (nbits w : Nat) : Option Instr :=
  match decodeBytes [(bytesOfWord (tableWord nbits w)).1, (bytesOfWord (tableWord nbits w)).2] with
  | .instr i _ => some i
  | .rejected _ => none

end Sys2Proof
end

