-- ==== Sys2Proof/Machine/Flow.lean ====
section
/-! DEFINITION. Control transfer and skips (41_flow.md). A meaning runs as the handler of R50: `pc` already holds
`trunc_16(a + 2)` and should_redraw is already cleared. -/

namespace Sys2Proof.Machine

/-- 00EE (R58): pop into `pc`, or the fault of R103. -/
def execRet (u : Nibble) (s : State) : Host.Outcome State Fault Refusal :=
  match s.pop with
  | some (w, s') => .next (s'.setPc w)
  | none => .next (s.raise .stackUnderflow (encode (.ret u)))

/-- 1nnn (R59). -/
def execJp (nnn : Addr) (s : State) : Host.Outcome State Fault Refusal :=
  .next (s.setPc (zextAddr nnn))

/-- 2nnn (R60): push the address after the call, or the fault of R102. -/
def execCall (nnn : Addr) (s : State) : Host.Outcome State Fault Refusal :=
  match s.push s.pc with
  | some s' => .next (s'.setPc (zextAddr nnn))
  | none => .next (s.raise .stackOverflow (encode (.call nnn)))

/-- Bnnn (R61): the sum is not wrapped to 12 bits. -/
def execJpV0 (nnn : Addr) (s : State) : Host.Outcome State Fault Refusal :=
  .next (s.setPc (zextAddr nnn + zextByte (s.getV 0)))

/-- 3xnn (R62). -/
def execSeImm (x : Reg) (nn : Byte) (s : State) : Host.Outcome State Fault Refusal :=
  .next (s.skipIf (s.getV x == nn))

/-- 4xnn (R63). -/
def execSneImm (x : Reg) (nn : Byte) (s : State) : Host.Outcome State Fault Refusal :=
  .next (s.skipIf (s.getV x != nn))

/-- 5xyn (R64): the low nibble is ignored. -/
def execSeReg (x y : Reg) (s : State) : Host.Outcome State Fault Refusal :=
  .next (s.skipIf (s.getV x == s.getV y))

/-- 9xyn (R65): the low nibble is ignored. -/
def execSneReg (x y : Reg) (s : State) : Host.Outcome State Fault Refusal :=
  .next (s.skipIf (s.getV x != s.getV y))

end Sys2Proof.Machine
end

