-- ==== Sys2Proof/Machine/IndexMemory.lean ====
section
/-! DEFINITION. The index register and memory transfers (43_index_memory.md). -/

namespace Sys2Proof.Machine

/-- Annn (R80). -/
def execLdI (nnn : Addr) (s : State) : Host.Outcome State Fault Refusal :=
  .next (s.setI (zextAddr nnn))

/-- Fx1E (R81): modulo 65536, no flag. -/
def execAddIVx (x : Reg) (s : State) : Host.Outcome State Fault Refusal :=
  .next (s.setI (s.i + zextByte (s.getV x)))

/-- Fx29 (R82). -/
def execLdFVx (x : Reg) (s : State) : Host.Outcome State Fault Refusal :=
  .next (s.setI (glyphAddr (s.getV x)))

/-- Fx33 (R83): hundreds at `I`, tens at `I + 1`, ones at `I + 2`. -/
def execLdBVx (x : Reg) (s : State) : Host.Outcome State Fault Refusal :=
  .next (((s.writeMem (s.indexAddr 0) (hundreds (s.getV x))).writeMem (s.indexAddr 1) (tens (s.getV x))).writeMem
    (s.indexAddr 2) (ones (s.getV x)))

/-- One turn of Fx55's loop: `MemWrite(I + r, 1, V[r])` (R84). -/
def State.storeReg (s : State) (r : Reg) : State := s.writeMem (s.indexAddr r.val) (s.getV r)

/-- Fx55 (R84): `V[0]` to `V[x]`, `I` unchanged. -/
def execLdMemVx (x : Reg) (s : State) : Host.Outcome State Fault Refusal :=
  .next ((regsUpTo x).foldl State.storeReg s)

/-- One turn of Fx65's loop: `V[r] <- MemRead(I + r, 1)` (R85). -/
def State.loadReg (s : State) (r : Reg) : State := s.setV r (s.readMem (s.indexAddr r.val))

/-- Fx65 (R85): `V[0]` to `V[x]`, `I` unchanged. -/
def execLdVxMem (x : Reg) (s : State) : Host.Outcome State Fault Refusal :=
  .next ((regsUpTo x).foldl State.loadReg s)

end Sys2Proof.Machine
end

