-- ==== Sys2Proof/Machine/KeysTimers.lean ====
section
/-! DEFINITION. The key and timer instructions (45_keys_timers.md). -/

namespace Sys2Proof.Machine

/-- Ex9E (R88). -/
def execSkp (x : Reg) (s : State) : Host.Outcome State Fault Refusal :=
  .next (s.skipIf (s.keyPressed (s.getV x)))

/-- ExA1 (R89). -/
def execSknp (x : Reg) (s : State) : Host.Outcome State Fault Refusal :=
  .next (s.skipIf (!s.keyPressed (s.getV x)))

/-- Fx07 (R91). -/
def execLdVxDt (x : Reg) (s : State) : Host.Outcome State Fault Refusal :=
  .next (s.setV x s.dt)

/-- Fx0A (R90): with no key held the same instruction runs again next Cycle; else the key that pick_key takes. -/
def execLdVxK (x : Reg) (s : State) : Host.Outcome State Fault Refusal :=
  if (heldKeys s.keys).isEmpty then .next (s.setPc (s.pc - 2))
  else .next (s.setV x (keyByte (pickKey s.keys)))

/-- Fx15 (R92). -/
def execLdDtVx (x : Reg) (s : State) : Host.Outcome State Fault Refusal :=
  .next (s.setDt (s.getV x))

/-- Fx18 (R93). -/
def execLdStVx (x : Reg) (s : State) : Host.Outcome State Fault Refusal :=
  .next (s.setSt (s.getV x))

end Sys2Proof.Machine
end

