-- ==== Sys2Proof/Machine/Cycle.lean ====
section
/-! DEFINITION. The Cycle transaction (40_cycle.md): fetch, advance, decode, dispatch. -/

namespace Sys2Proof.Machine

/-- The word at `pc`: two byte reads, the high byte first (R35, R50). No alignment, addresses modulo 4096 (R34, R36). -/
def State.fetchWord (s : State) : Word :=
  wordOfBytes (s.readMem s.pc.toNat) (s.readMem (s.pc.toNat + 1))

/-- The state in which a handler starts: `pc` advanced by 2 and should_redraw cleared (R50, R51). -/
def State.handlerEntry (s : State) : State := (s.setPc (s.pc + 2)).setRedraw false

/-- `Cycle()` (R50). While a fault is recorded it changes nothing (R52); an undefined word is a no-op (R55). -/
def State.cycle (s : State) : Host.Outcome State Fault Refusal :=
  if s.fault.isSome then .next s
  else
    match decode s.fetchWord with
    | .instr i => exec i s.handlerEntry
    | .undefined _ => .next s.handlerEntry

/-- The state with the bytes of the opcode table's word at `pc` (R35), no fault recorded (R52) and no other transaction waiting, so
that the very next step is the Cycle that runs it (log 2). -/
def State.placeFetchWord (s : State) (nbits w : Nat) : State :=
  { (s.writeMem s.pc.toNat (bytesOfWord (tableWord nbits w)).1).writeMem (s.pc.toNat + 1)
      (bytesOfWord (tableWord nbits w)).2 with
    fault := none, inputs := [] }

end Sys2Proof.Machine
end

