-- ==== Sys2Proof/Machine/Transactions.lean ====
section
/-! DEFINITION. The host's transactions (R6): the timers (R109, R110), the keys (R113), LoadProgram (R120), power-on with any
parameters and font (R119), and the choice of the next transaction from the schedule (R8, R39). -/

namespace Sys2Proof.Machine

/-- One timer period of a counter, clamped at zero (R20, R109). -/
def countDown (b : Byte) : Byte := if b.toNat > 0 then b - 1 else b

/-- `Tick()` (R109): effective only while the timer subsystem is started. -/
def State.tick (s : State) : State :=
  if s.timerRunning then (s.setDt (countDown s.dt)).setSt (countDown s.st) else s

/-- `StartTimer()` (R110). -/
def State.startTimer (s : State) : State := s.setTimerRunning true

/-- `StopTimer()` (R110). -/
def State.stopTimer (s : State) : State := s.setTimerRunning false

/-- `KeyDown(k)` (R113). -/
def State.keyDown (s : State) (k : Key) : State := s.setKey k true

/-- `KeyUp(k)` (R113). -/
def State.keyUp (s : State) (k : Key) : State := s.setKey k false

/-- `LoadProgram(P)`, the block's reset (R120); the key set, and the memory below 0x200, are kept (R121). -/
def State.loadProgram (s : State) (program : List Byte) : State :=
  { s with
    mem          := s.mem.load program
    disp         := Vector.replicate 64 (Vector.replicate 32 false)
    pc           := 0x200
    v            := Vector.replicate 16 0
    i            := 0
    stack        := []
    dt           := 0
    st           := 0
    shouldRedraw := false
    fault        := none
    timerRunning := true }

/-- Power-on (R119) of a block with the parameters `p` and the font `font` (R5, D17): `State.reset` is it with the defaults. -/
def State.powerOn (p : Params) (font : Vector Byte 80) : State :=
  { State.reset with params := p, mem := Memory.cellsFrom fontBase font.toList }

/-- One transaction, taken as a whole (R8). -/
def State.transact (t : Transaction) (s : State) : Host.Outcome State Fault Refusal :=
  match t with
  | .loadProgram program => .next (s.loadProgram program)
  | .cycle => s.cycle
  | .tick => .next s.tick
  | .keyDown k => .next (s.keyDown k)
  | .keyUp k => .next (s.keyUp k)
  | .startTimer => .next s.startTimer
  | .stopTimer => .next s.stopTimer

/-- The next transaction of the schedule; the host issues Cycle when none is waiting (R8, R39; log 1). -/
def State.advance (s : State) : Host.Outcome State Fault Refusal :=
  match s.inputs with
  | [] => s.cycle
  | t :: rest => State.transact t { s with inputs := rest }

end Sys2Proof.Machine
end

