-- ==== Sys2Proof/Machine/Step.lean ====
section
/-! DEFINITION. One step of the block: one transaction (R8). -/

namespace Sys2Proof.Machine

/-- One step: the next transaction of the host's schedule, a Cycle when none waits. -/
def step (s : State) : Host.Outcome State Fault Refusal := s.advance

/-- `s` with the opcode table's word stored where the next step fetches (see `State.placeFetchWord`). -/
def State.withFetchWord (s : State) (nbits w : Nat) : State := s.placeFetchWord nbits w

end Sys2Proof.Machine
end

