-- ==== Sys2Proof/Machine/Disassembler.lean ====
section
/-! DEFINITION. The disassembler (48_disassembler.md): stateless, a function of the buffer alone (R94). Its callback's calls are the list
of triples it gives. -/

namespace Sys2Proof.Machine

/-- One call of `emit`: the offset in the buffer, the mnemonic, the operand strings (R94, R95). -/
structure Line where
  address  : Nat
  mnemonic : String
  operands : List String
  deriving DecidableEq, Repr

/-- One upper-case hexadecimal digit (R96). -/
def hexDigit (d : Nibble) : Char :=
  if d.toNat < 10 then Char.ofNat (48 + d.toNat) else Char.ofNat (55 + d.toNat)

/-- `A(v)`: `$` and three digits (R96). -/
def textA (v : Addr) : String :=
  String.ofList ['$', hexDigit (v.extractLsb' 8 4), hexDigit (v.extractLsb' 4 4), hexDigit (v.extractLsb' 0 4)]

/-- `B(v)`: `$` and two digits (R96). -/
def textB (v : Byte) : String :=
  String.ofList ['$', hexDigit (v.extractLsb' 4 4), hexDigit (v.extractLsb' 0 4)]

/-- `N(v)`: `$` and one digit (R96). -/
def textN (v : Nibble) : String := String.ofList ['$', hexDigit v]

/-- `R(i)`: `V` and one digit (R96). -/
def textR (x : Reg) : String := String.ofList ['V', hexDigit (regBits x)]

/-- `W(v)`: `$` and four digits (R96). -/
def textW (w : Word) : String :=
  String.ofList ['$', hexDigit (w.extractLsb' 12 4), hexDigit (w.extractLsb' 8 4), hexDigit (w.extractLsb' 4 4),
    hexDigit (w.extractLsb' 0 4)]

/-- The mnemonic and operands of an instruction (R97). -/
def textOf : Instr → String × List String
  | .cls _ => ("CLS", [])
  | .ret _ => ("RET", [])
  | .jp nnn => ("JP", [textA nnn])
  | .call nnn => ("CALL", [textA nnn])
  | .seImm x nn => ("SE", [textR x, textB nn])
  | .sneImm x nn => ("SNE", [textR x, textB nn])
  | .seReg x y _ => ("SE", [textR x, textR y])
  | .ldImm x nn => ("LD", [textR x, textB nn])
  | .addImm x nn => ("ADD", [textR x, textB nn])
  | .ldReg x y => ("LD", [textR x, textR y])
  | .orReg x y => ("OR", [textR x, textR y])
  | .andReg x y => ("AND", [textR x, textR y])
  | .xorReg x y => ("XOR", [textR x, textR y])
  | .addReg x y => ("ADD", [textR x, textR y])
  | .subReg x y => ("SUB", [textR x, textR y])
  | .shrReg x y => ("SHR", [textR x, textR y])
  | .subnReg x y => ("SUBN", [textR x, textR y])
  | .shlReg x y => ("SHL", [textR x, textR y])
  | .sneReg x y _ => ("SNE", [textR x, textR y])
  | .ldI nnn => ("LD", ["I", textA nnn])
  | .jpV0 nnn => ("JP", ["V0", textA nnn])
  | .rnd x nn => ("RND", [textR x, textB nn])
  | .drw x y n => ("DRW", [textR x, textR y, textN n])
  | .skp x => ("SKP", [textR x])
  | .sknp x => ("SKNP", [textR x])
  | .ldVxDt x => ("LD", [textR x, "DT"])
  | .ldVxK x => ("LD", [textR x, "K"])
  | .ldDtVx x => ("LD", ["DT", textR x])
  | .ldStVx x => ("LD", ["ST", textR x])
  | .addIVx x => ("ADD", ["I", textR x])
  | .ldFVx x => ("LD", ["F", textR x])
  | .ldBVx x => ("LD", ["B", textR x])
  | .ldMemVx x => ("LD", ["[I]", textR x])
  | .ldVxMem x => ("LD", [textR x, "[I]"])

/-- The text of a word: an undefined word gives the marker `UNKNOWN` with the raw word (R97, R98). -/
def textOfWord (w : Word) : String × List String :=
  match decode w with
  | .instr i => textOf i
  | .undefined _ => ("UNKNOWN", [textW w])

/-- The walk of R95 from offset `k` on. -/
def disassembleFrom (k : Nat) : List Byte → List Line
  | hi :: lo :: rest =>
    { address := k, mnemonic := (textOfWord (wordOfBytes hi lo)).1, operands := (textOfWord (wordOfBytes hi lo)).2 } ::
      disassembleFrom (k + 2) rest
  | _ => []

/-- `Disassemble(buf)` (R95): two bytes at a time, stopping when fewer than two remain. -/
def disassemble (buf : List Byte) : List Line := disassembleFrom 0 buf

end Sys2Proof.Machine
end

