-- ==== Sys2Proof/Safety.lean ====
section
/-! DEFINITION. The terms that claims use: when a state is a fault outcome (R56), the invariant of the machine, what an instruction may
touch (10_state.md, section 10), and frames. -/

namespace Sys2Proof.Machine

/-- R56: "a model should treat a state with `fault` ≠ `None` as a fault outcome, never as a final state". A run that ends in `s` ends
as this says (log 10). -/
def State.verdict (s : State) : Host.Outcome State Fault Refusal :=
  match s.fault with
  | some f => .fault f.cause
  | none => .next s

/-- A recorded fault fits the state it was taken in (R101, R104): pc is the faulting address, should_redraw is as the faulting Cycle
cleared it, and the word and the depth are those of the cause. -/
def State.faultFits (s : State) (f : FaultRecord) : Prop :=
  f.pc = s.pc ∧ s.shouldRedraw = false ∧
    match f.cause with
    | .stackOverflow => s.depth = stackDepth ∧ ∃ nnn, f.word = encode (.call nnn)
    | .stackUnderflow => s.depth = 0 ∧ ∃ u, f.word = encode (.ret u)

/-- The invariant: memory is in canonical form, at most 16 frames are held (R19), and a recorded fault fits the state. -/
def State.Inv (s : State) : Prop :=
  s.mem.wf = true ∧ s.depth ≤ stackDepth ∧ ∀ f, s.fault = some f → s.faultFits f

/-- The parts of the state that a transaction may change; every other part is unchanged. `cells` are addresses below 4096. The key set,
timer_running, the parameters and the schedule are no part: no instruction touches them (R21, R25). -/
structure Touches where
  regs    : List Reg := []
  cells   : List Nat := []
  pc      : Bool := false
  index   : Bool := false
  stack   : Bool := false
  delay   : Bool := false
  sound   : Bool := false
  display : Bool := false
  redraw  : Bool := false
  fault   : Bool := false
  draws   : Bool := false
  deriving DecidableEq, Repr

/-- `t` is `s` but for the parts that `f` names. -/
structure Frame (f : Touches) (s t : State) : Prop where
  regs         : ∀ r, r ∉ f.regs → t.getV r = s.getV r
  mem          : ∀ a, a % memSize ∉ f.cells → t.readMem a = s.readMem a
  pc           : f.pc = false → t.pc = s.pc
  index        : f.index = false → t.i = s.i
  stack        : f.stack = false → t.stack = s.stack
  delay        : f.delay = false → t.dt = s.dt
  sound        : f.sound = false → t.st = s.st
  display      : f.display = false → ∀ c r, t.pixel c r = s.pixel c r
  redraw       : f.redraw = false → t.shouldRedraw = s.shouldRedraw
  fault        : f.fault = false → t.fault = s.fault
  draws        : f.draws = false → t.draws = s.draws
  keys         : ∀ k, t.held k = s.held k
  timerRunning : t.timerRunning = s.timerRunning
  params       : t.params = s.params
  inputs       : t.inputs = s.inputs

/-- The cells that `MemWrite(I + k, 1, _)` reaches for the offsets `ks` (R34). -/
def State.indexCells (s : State) (ks : List Nat) : List Nat := ks.map (fun k => s.indexAddr k % memSize)

/-- What each instruction may touch: the "written by" column of 10_state.md, section 10, with R14 and R15 for the registers. -/
def touches (i : Instr) (s : State) : Touches :=
  match i with
  | .cls _ => { display := true, redraw := true }
  | .ret _ => { pc := true, stack := true, fault := true }
  | .jp _ => { pc := true }
  | .call _ => { pc := true, stack := true, fault := true }
  | .seImm _ _ => { pc := true }
  | .sneImm _ _ => { pc := true }
  | .seReg _ _ _ => { pc := true }
  | .ldImm x _ => { regs := [x] }
  | .addImm x _ => { regs := [x] }
  | .ldReg x _ => { regs := [x] }
  | .orReg x _ => { regs := [x] }
  | .andReg x _ => { regs := [x] }
  | .xorReg x _ => { regs := [x] }
  | .addReg x _ => { regs := [x, VF] }
  | .subReg x _ => { regs := [x, VF] }
  | .shrReg x _ => { regs := [x, VF] }
  | .subnReg x _ => { regs := [x, VF] }
  | .shlReg x _ => { regs := [x, VF] }
  | .sneReg _ _ _ => { pc := true }
  | .ldI _ => { index := true }
  | .jpV0 _ => { pc := true }
  | .rnd x _ => { regs := [x], draws := true }
  | .drw _ _ _ => { regs := [VF], display := true, redraw := true }
  | .skp _ => { pc := true }
  | .sknp _ => { pc := true }
  | .ldVxDt x => { regs := [x] }
  | .ldVxK x => { regs := [x], pc := true }
  | .ldDtVx _ => { delay := true }
  | .ldStVx _ => { sound := true }
  | .addIVx _ => { index := true }
  | .ldFVx _ => { index := true }
  | .ldBVx _ => { cells := s.indexCells [0, 1, 2] }
  | .ldMemVx x => { cells := s.indexCells (List.range (x.val + 1)) }
  | .ldVxMem x => { regs := (List.finRange 16).filter (fun r => r ≤ x) }

/-! ## What a step takes -/

/-- The next step is the transaction `t` (R8). -/
def State.takes (s : State) (t : Transaction) : Prop := ∃ rest, s.inputs = t :: rest

/-- The next step is a Cycle: none waits, or the oldest one waiting is `Cycle()` (log 1). -/
def State.takesCycle (s : State) : Prop := s.inputs = [] ∨ s.takes .cycle

/-- The next step is a Cycle that executes `i` (R50, R52). -/
def State.runs (s : State) (i : Instr) : Prop := s.takesCycle ∧ s.fault = none ∧ decode s.fetchWord = .instr i

/-! ## Encodings -/

/-- Every word of a row of the opcode map decodes to the instruction that `mk` makes of its fields (R48). -/
def Encodes (mask value : Word) (mk : Fields → Instr) : Prop :=
  ∀ w : Word, w &&& mask = value → decode w = .instr (mk (fieldsOf w))

/-- Every word of a row of the opcode map has the mnemonic and the operands that `mk` makes of its fields (R97). -/
def Texts (mask value : Word) (mk : Fields → String × List String) : Prop :=
  ∀ w : Word, w &&& mask = value → textOfWord w = mk (fieldsOf w)

/-! ## Sprites -/

/-- An n-row sprite of `s` drawn at column `X`, row `Y` has a set bit on pixel (c, r): positions wrap, one byte a row from `I` on, the
most significant bit first (R87). -/
def State.spriteFlips (s : State) (X Y : Byte) (n : Nat) (c : Col) (r : Row) : Prop :=
  ∃ row k, row < n ∧ k < 8 ∧ c.val = (X.toNat + k) % 64 ∧ r.val = (Y.toNat + row) % 32 ∧
    (s.readMem (s.i.toNat + row)).getLsbD (7 - k) = true

/-- What R87's loops carry from bit to bit: the pixels, the collision flag, should_redraw. -/
structure DrawAcc where
  px     : Col → Row → Bool
  flag   : Bool
  redraw : Bool

/-- One pixel of R87's loop body. -/
def DrawAcc.flip (acc : DrawAcc) (c : Col) (r : Row) (bit : Bool) : DrawAcc where
  px c' r' := if c' = c ∧ r' = r then acc.px c r ^^ bit else acc.px c' r'
  flag     := acc.flag || (acc.px c r && bit)
  redraw   := acc.redraw || bit

/-- The inner loop of R87, `k` from 0 up to but not including the given number, over the bits of the byte `b`. The column and row
coordinates are functions of the live flag, for the forms that read `VF` (R67). -/
def drawRowLoop (X Y : Bool → Byte) (b : Byte) (row : Nat) : Nat → DrawAcc → DrawAcc
  | 0, acc => acc
  | k + 1, acc =>
    let before := drawRowLoop X Y b row k acc
    before.flip ⟨((X before.flag).toNat + k) % 64, Nat.mod_lt _ (by decide)⟩
      ⟨((Y before.flag).toNat + row) % 32, Nat.mod_lt _ (by decide)⟩ (b.getLsbD (7 - k))

/-- The outer loop of R87, over the rows below the given number. -/
def drawLoop (X Y : Bool → Byte) (byteOf : Nat → Byte) : Nat → DrawAcc → DrawAcc
  | 0, acc => acc
  | row + 1, acc => drawRowLoop X Y (byteOf row) row 8 (drawLoop X Y byteOf row acc)

end Sys2Proof.Machine
end

