-- ==== Sys2Proof/Certificates/Slice0/Obligations.lean ====
section
/-! DEFINITION. The statements for the provers. A statement about an instruction speaks of `exec` in the state in which its handler starts
(R50: `pc` is the fetch address plus 2); `Obligations.StepRunsDecodedInstruction` carries it to a step. `Encodes` says which words are
the instruction; `Frame` says that everything it does not name is unchanged. -/

open Sys2Proof Sys2Proof.Machine

/-! ## Encoding (30_encoding.md) -/

/-- Decoding the word of any instruction, or its two bytes in memory order followed by others, gives that instruction back, with every
operand at every value, ignored bits included (R46, R48). -/
def Obligations.DecodeInvertsEncode : Prop :=
  ∀ i : Instr, decode (encode i) = .instr i ∧
    ∀ rest : List Byte,
      decodeBytes ((bytesOfWord (encode i)).1 :: (bytesOfWord (encode i)).2 :: rest) = .instr i rest

/-- A word that decodes to an instruction is that instruction's word. That no two words share an instruction, and that no bit is lost, is
the model's form: `Instr` keeps the bits that R46 says the instruction ignores (`u`; log 6). -/
def Obligations.EncodeInvertsDecode : Prop :=
  ∀ (w : Word) (i : Instr), decode w = .instr i → encode i = w

/-- R43: the six fields are the documented bit slices, and they overlap as the fields of one word do. -/
def Obligations.FieldsAreTheBitSlices : Prop :=
  ∀ w : Word,
    (fieldsOf w).opcode.toNat = w.toNat / 4096 ∧ (fieldsOf w).x.toNat = w.toNat / 256 % 16 ∧
    (fieldsOf w).y.toNat = w.toNat / 16 % 16 ∧ (fieldsOf w).nnn.toNat = w.toNat % 4096 ∧
    (fieldsOf w).nn.toNat = w.toNat % 256 ∧ (fieldsOf w).n.toNat = w.toNat % 16 ∧
    (fieldsOf w).wellFormed = true

/-- R48's map: a word decodes to an instruction exactly when it matches a row, it matches at most one row, and the instruction it
decodes to is of the row it matches. -/
def Obligations.DecodeFollowsOpcodeMap : Prop :=
  ∀ w : Word,
    ((∃ i, decode w = .instr i) ↔ ∃ row ∈ opcodeMap, matchesRow w row = true) ∧
    (opcodeMap.filter (matchesRow w)).length ≤ 1 ∧
    ∀ i, decode w = .instr i → (rowMask i, rowMatch i) ∈ opcodeMap ∧ matchesRow w (rowMask i, rowMatch i) = true

/-- R49's groups: which words are undefined, by opcode and subcode; the other twelve opcodes have none. -/
def Obligations.UndefinedWordsByGroup : Prop :=
  ∀ w : Word,
    (decode w = .undefined .group0 ↔
      w.toNat / 4096 = 0x0 ∧ w.toNat % 256 ≠ 0xE0 ∧ w.toNat % 256 ≠ 0xEE) ∧
    (decode w = .undefined .group8 ↔
      w.toNat / 4096 = 0x8 ∧ w.toNat % 16 ∈ [0x8, 0x9, 0xA, 0xB, 0xC, 0xD, 0xF]) ∧
    (decode w = .undefined .groupE ↔
      w.toNat / 4096 = 0xE ∧ w.toNat % 256 ≠ 0x9E ∧ w.toNat % 256 ≠ 0xA1) ∧
    (decode w = .undefined .groupF ↔
      w.toNat / 4096 = 0xF ∧ w.toNat % 256 ∉ [0x07, 0x0A, 0x15, 0x18, 0x1E, 0x29, 0x33, 0x55, 0x65])

/-- Words of the spec's own examples decode to the instructions they stand for there. -/
def Obligations.SampleWordsDecode : Prop :=
  decode 0x00E0 = .instr (.cls 0) ∧ decode 0x0FEE = .instr (.ret 0xF) ∧ decode 0x2400 = .instr (.call 0x400) ∧
  decode 0x5125 = .instr (.seReg 1 2 5) ∧ decode 0x8015 = .instr (.subReg 0 1) ∧ decode 0xA202 = .instr (.ldI 0x202) ∧
  decode 0xC30F = .instr (.rnd 3 0x0F) ∧ decode 0xD125 = .instr (.drw 1 2 5) ∧ decode 0xF30A = .instr (.ldVxK 3) ∧
  decode 0xF255 = .instr (.ldMemVx 2) ∧ decode 0x8008 = .undefined .group8 ∧ decode 0x0000 = .undefined .group0

/-! ## The Cycle transaction (40_cycle.md) -/

/-- R50: Cycle with no fault recorded fetches the word at `pc`, the high byte first, and is `exec` of the instruction it decodes to in
the state with `pc` advanced by 2 and should_redraw cleared; for a word that decodes to no instruction it is that state. With a fault
recorded it does nothing. -/
def Obligations.CycleRunsDecodedInstruction : Prop :=
  ∀ s : State,
    (s.fault ≠ none → State.transact .cycle s = .next s) ∧
    (s.fault = none →
      (∀ i, decode (s.readMem s.pc.toNat ++ s.readMem (s.pc.toNat + 1)) = .instr i →
        State.transact .cycle s = exec i { s with pc := s.pc + 2, shouldRedraw := false }) ∧
      (∀ g, decode (s.readMem s.pc.toNat ++ s.readMem (s.pc.toNat + 1)) = .undefined g →
        State.transact .cycle s = .next { s with pc := s.pc + 2, shouldRedraw := false }))

/-- A step that is a Cycle on a machine with no fault runs the decoded instruction: it is `exec` of it in the state with `pc` advanced
by 2, should_redraw cleared, and the transaction taken off the schedule if one was there; an empty schedule means a Cycle, the model's
own convention (log 1). For a word that decodes to no instruction the step is that state. -/
def Obligations.StepRunsDecodedInstruction : Prop :=
  ∀ (s : State) (rest : List Transaction),
    (s.inputs = [] ∧ rest = [] ∨ s.inputs = .cycle :: rest) → s.fault = none →
    (∀ i, decode (s.readMem s.pc.toNat ++ s.readMem (s.pc.toNat + 1)) = .instr i →
      step s = exec i { s with pc := s.pc + 2, shouldRedraw := false, inputs := rest }) ∧
    (∀ g, decode (s.readMem s.pc.toNat ++ s.readMem (s.pc.toNat + 1)) = .undefined g →
      step s = .next { s with pc := s.pc + 2, shouldRedraw := false, inputs := rest })

/-- R55: the Cycle of a word that matches no row of the opcode map is a no-op: `pc` advances by 2, should_redraw is cleared, nothing else
changes. -/
def Obligations.UndefinedWordIsNoOp : Prop :=
  ∀ s : State, s.fault = none →
    (∀ row ∈ opcodeMap, matchesRow (s.readMem s.pc.toNat ++ s.readMem (s.pc.toNat + 1)) row = false) →
    State.transact .cycle s = .next { s with pc := s.pc + 2, shouldRedraw := false }

/-- R52: while a fault is recorded, Cycle changes no state at all. -/
def Obligations.FaultedCycleChangesNothing : Prop :=
  ∀ s : State, s.fault ≠ none → State.transact .cycle s = .next s

/-- Every transaction has a meaning in every state: no step ends in a refusal (93_implementation_defined.md, part 1) or in a fault. That
a stack fault is a next state with the fault recorded, the Cycle returning normally as in R104, is the model's choice (log 10): R56
asks for a fault outcome, and that is `State.verdict`. -/
def Obligations.StepAlwaysAnswersNext : Prop :=
  ∀ s : State, ∃ t, step s = .next t

/-- The word of an instruction placed at `pc` is the one that the next step runs. -/
def Obligations.PlacedWordRunsNext : Prop :=
  ∀ (i : Instr) (s : State),
    step (s.withFetchWord 16 (encode i).toNat) = exec i (s.withFetchWord 16 (encode i).toNat).handlerEntry

/-- R34: every access takes its address modulo 4096, for any natural address, and none faults: a read gives what was last written at that
address, and a write leaves every other address alone. -/
def Obligations.MemoryAccessWraps : Prop :=
  ∀ (s : State) (a : Nat) (b : Byte),
    s.readMem a = s.readMem (a % 4096) ∧ s.writeMem a b = s.writeMem (a % 4096) b ∧ (s.writeMem a b).readMem a = b ∧
    ∀ k, k % 4096 ≠ a % 4096 → (s.writeMem a b).readMem k = s.readMem k

/-- Code stored by Fx55 is what the next fetch of its address reads (20_memory.md, section 4). -/
def Obligations.StoredCodeIsFetched : Prop :=
  ∀ (x r r' : Reg) (s : State), r'.val = r.val + 1 → r' ≤ x →
    ∃ t, exec (.ldMemVx x) s = .next t ∧
      (t.pc.toNat % 4096 = (s.i.toNat + r.val) % 4096 → t.fetchWord = s.getV r ++ s.getV r')

/-- A skip taken ends two words on: `trunc_16(a + 4)` (40_cycle.md, section 2), for each of the six skips. -/
def Obligations.SkipLandsTwoWordsOn : Prop :=
  ∀ (s : State) (x y : Reg) (nn : Byte) (u : Nibble), s.takesCycle → s.fault = none →
    (decode s.fetchWord = .instr (.seImm x nn) ∧ s.getV x = nn ∨
      decode s.fetchWord = .instr (.sneImm x nn) ∧ s.getV x ≠ nn ∨
      decode s.fetchWord = .instr (.seReg x y u) ∧ s.getV x = s.getV y ∨
      decode s.fetchWord = .instr (.sneReg x y u) ∧ s.getV x ≠ s.getV y ∨
      decode s.fetchWord = .instr (.skp x) ∧ (∃ k : Key, s.held k = true ∧ (s.getV x).toNat = k.val) ∨
      decode s.fetchWord = .instr (.sknp x) ∧ ¬ ∃ k : Key, s.held k = true ∧ (s.getV x).toNat = k.val) →
    ∃ t, step s = .next t ∧ t.pc = s.pc + 4

/-- A word 1nnn with nnn equal to its own address is a fixed point of Cycle but for should_redraw (40_cycle.md, section 4). -/
def Obligations.SelfJumpIsFixedPoint : Prop :=
  ∀ (s : State) (nnn : Addr), s.fault = none → decode s.fetchWord = .instr (.jp nnn) → s.pc = nnn.setWidth 16 →
    State.transact .cycle s = .next { s with shouldRedraw := false }

/-! ## Control transfer and skips (41_flow.md) -/

/-- R59, R61: 1nnn sets `pc` to nnn; Bnnn to nnn + V[0], not wrapped to 12 bits. -/
def Obligations.JumpsSetPc : Prop :=
  Encodes 0xF000 0x1000 (fun f => .jp f.nnn) ∧ Encodes 0xF000 0xB000 (fun f => .jpV0 f.nnn) ∧
  ∀ (nnn : Addr) (s : State),
    (∃ t, exec (.jp nnn) s = .next t ∧ t.pc.toNat = nnn.toNat ∧ Frame { pc := true } s t) ∧
    (∃ t, exec (.jpV0 nnn) s = .next t ∧ t.pc.toNat = nnn.toNat + (s.getV 0).toNat ∧ Frame { pc := true } s t)

/-- R60: 2nnn with fewer than 16 frames pushes `pc`, the address after the call word, and jumps; with 16 frames it raises
StackOverflow: the word and its address `a` are recorded, `pc` is `a`, nothing is pushed. -/
def Obligations.CallPushesReturnAddress : Prop :=
  Encodes 0xF000 0x2000 (fun f => .call f.nnn) ∧
  ∀ (nnn : Addr) (s : State),
    (s.depth < 16 →
      ∃ t, exec (.call nnn) s = .next t ∧ t.stack = s.stack ++ [s.pc] ∧ t.pc.toNat = nnn.toNat ∧
        Frame { pc := true, stack := true } s t) ∧
    (∀ a : Word, s.depth = 16 → s.pc = a + 2 →
      exec (.call nnn) s =
        .next { s with pc := a, fault := some { cause := .stackOverflow, pc := a, word := 0x2#4 ++ nnn } })

/-- R58: 00EE (bits 11-8 ignored) with a frame held pops the last one into `pc`; with none it raises StackUnderflow: the word and its
address `a` are recorded, `pc` is `a`, nothing is popped. -/
def Obligations.ReturnPopsAddress : Prop :=
  Encodes 0xF0FF 0x00EE (fun f => .ret f.x) ∧
  ∀ (u : Nibble) (s : State),
    (∀ (below : List Word) (w : Word), s.stack = below ++ [w] →
      ∃ t, exec (.ret u) s = .next t ∧ t.pc = w ∧ t.stack = below ∧ Frame { pc := true, stack := true } s t) ∧
    (∀ a : Word, s.depth = 0 → s.pc = a + 2 →
      exec (.ret u) s =
        .next { s with pc := a, fault := some { cause := .stackUnderflow, pc := a, word := 0x0#4 ++ u ++ 0xEE#8 } })

/-- R102, R103, R104: in a whole Cycle, a CALL with 16 frames and a RET with none record the cause, the fetch address and the fetched
word; `pc` stays at the faulting instruction, should_redraw is cleared, and nothing else changes. -/
def Obligations.StackFaultEntryIsPrecise : Prop :=
  ∀ s : State, s.fault = none →
    (∀ nnn, decode s.fetchWord = .instr (.call nnn) → s.depth = 16 →
      State.transact .cycle s = .next { s with
        shouldRedraw := false
        fault := some { cause := .stackOverflow, pc := s.pc, word := s.fetchWord } }) ∧
    (∀ u, decode s.fetchWord = .instr (.ret u) → s.depth = 0 →
      State.transact .cycle s = .next { s with
        shouldRedraw := false
        fault := some { cause := .stackUnderflow, pc := s.pc, word := s.fetchWord } })

/-- A call and then, wherever it stands, a return resumes at the instruction after the call, with the stack as before the call
(41_flow.md, section 1). -/
def Obligations.CallThenReturnResumes : Prop :=
  ∀ (nnn : Addr) (u : Nibble) (s : State), s.depth < 16 →
    ∃ t, exec (.call nnn) s = .next t ∧
      ∀ p : Word, ∃ r, exec (.ret u) { t with pc := p } = .next r ∧ r.pc = s.pc ∧ r.stack = s.stack

/-- R62, R63: 3xnn skips one word when V[x] = nn, 4xnn when V[x] ≠ nn. -/
def Obligations.SkipsOnImmediate : Prop :=
  Encodes 0xF000 0x3000 (fun f => .seImm f.x.toFin f.nn) ∧ Encodes 0xF000 0x4000 (fun f => .sneImm f.x.toFin f.nn) ∧
  ∀ (x : Reg) (nn : Byte) (s : State),
    (∃ t, exec (.seImm x nn) s = .next t ∧ t.pc = (if s.getV x = nn then s.pc + 2 else s.pc) ∧
      Frame { pc := true } s t) ∧
    (∃ t, exec (.sneImm x nn) s = .next t ∧ t.pc = (if s.getV x = nn then s.pc else s.pc + 2) ∧
      Frame { pc := true } s t)

/-- R64, R65: 5xyn skips when V[x] = V[y], 9xyn when they differ, whatever the ignored low nibble holds. -/
def Obligations.SkipsOnRegisters : Prop :=
  Encodes 0xF000 0x5000 (fun f => .seReg f.x.toFin f.y.toFin f.n) ∧
  Encodes 0xF000 0x9000 (fun f => .sneReg f.x.toFin f.y.toFin f.n) ∧
  ∀ (x y : Reg) (u : Nibble) (s : State),
    (∃ t, exec (.seReg x y u) s = .next t ∧ t.pc = (if s.getV x = s.getV y then s.pc + 2 else s.pc) ∧
      Frame { pc := true } s t) ∧
    (∃ t, exec (.sneReg x y u) s = .next t ∧ t.pc = (if s.getV x = s.getV y then s.pc else s.pc + 2) ∧
      Frame { pc := true } s t)

/-! ## Register loads and ALU (42_alu.md) -/

/-- R68, R69, R70: 6xnn writes nn; 7xnn adds nn modulo 256; 8xy0 writes V[y]; none writes a flag. -/
def Obligations.LoadsAndImmediateAdd : Prop :=
  Encodes 0xF000 0x6000 (fun f => .ldImm f.x.toFin f.nn) ∧ Encodes 0xF000 0x7000 (fun f => .addImm f.x.toFin f.nn) ∧
  Encodes 0xF00F 0x8000 (fun f => .ldReg f.x.toFin f.y.toFin) ∧
  ∀ (x y : Reg) (nn : Byte) (s : State),
    (∃ t, exec (.ldImm x nn) s = .next t ∧ t.getV x = nn ∧ Frame { regs := [x] } s t) ∧
    (∃ t, exec (.addImm x nn) s = .next t ∧ (t.getV x).toNat = ((s.getV x).toNat + nn.toNat) % 256 ∧
      Frame { regs := [x] } s t) ∧
    (∃ t, exec (.ldReg x y) s = .next t ∧ t.getV x = s.getV y ∧ Frame { regs := [x] } s t)

/-- R71, R72, R73: 8xy1, 8xy2 and 8xy3 write OR, AND and XOR, bit by bit, and no flag. -/
def Obligations.BitwiseOperations : Prop :=
  Encodes 0xF00F 0x8001 (fun f => .orReg f.x.toFin f.y.toFin) ∧
  Encodes 0xF00F 0x8002 (fun f => .andReg f.x.toFin f.y.toFin) ∧
  Encodes 0xF00F 0x8003 (fun f => .xorReg f.x.toFin f.y.toFin) ∧
  ∀ (x y : Reg) (s : State),
    (∃ t, exec (.orReg x y) s = .next t ∧ Frame { regs := [x] } s t ∧
      ∀ b, (t.getV x).getLsbD b = ((s.getV x).getLsbD b || (s.getV y).getLsbD b)) ∧
    (∃ t, exec (.andReg x y) s = .next t ∧ Frame { regs := [x] } s t ∧
      ∀ b, (t.getV x).getLsbD b = ((s.getV x).getLsbD b && (s.getV y).getLsbD b)) ∧
    (∃ t, exec (.xorReg x y) s = .next t ∧ Frame { regs := [x] } s t ∧
      ∀ b, (t.getV x).getLsbD b = ((s.getV x).getLsbD b ^^ (s.getV y).getLsbD b))

/-- R74: 8xy4 writes the carry of the exact sum to VF, then the sum modulo 256 to V[x]. Its reads of VF after the flag write give the
flag under VF_READ = sequential and the value held at the start under snapshot (R67). With x = 0xF the sum is the last write. -/
def Obligations.AddSetsCarry : Prop :=
  Encodes 0xF00F 0x8004 (fun f => .addReg f.x.toFin f.y.toFin) ∧
  ∀ (x y : Reg) (s : State), ∃ t, exec (.addReg x y) s = .next t ∧
    (let flag := if (s.getV x).toNat + (s.getV y).toNat > 255 then 1 else 0
     let a := if s.params.vfRead = .sequential ∧ x = VF then flag else (s.getV x).toNat
     let b := if s.params.vfRead = .sequential ∧ y = VF then flag else (s.getV y).toNat
     (t.getV x).toNat = (a + b) % 256 ∧ (x ≠ VF → (t.getV VF).toNat = flag)) ∧
    Frame { regs := [x, VF] } s t

/-- R75, R76: 8xy5 writes VF = (V[x] > V[y]), strictly, then V[x] - V[y] modulo 256; 8xy7 writes VF = (V[y] > V[x]), then V[y] - V[x].
Reads of VF after the flag write as in R67. -/
def Obligations.SubtractSetsGreater : Prop :=
  Encodes 0xF00F 0x8005 (fun f => .subReg f.x.toFin f.y.toFin) ∧
  Encodes 0xF00F 0x8007 (fun f => .subnReg f.x.toFin f.y.toFin) ∧
  ∀ (x y : Reg) (s : State),
    (∃ t, exec (.subReg x y) s = .next t ∧
      (let flag := if (s.getV x).toNat > (s.getV y).toNat then 1 else 0
       let a := if s.params.vfRead = .sequential ∧ x = VF then flag else (s.getV x).toNat
       let b := if s.params.vfRead = .sequential ∧ y = VF then flag else (s.getV y).toNat
       (t.getV x).toNat = (256 + a - b) % 256 ∧ (x ≠ VF → (t.getV VF).toNat = flag)) ∧
      Frame { regs := [x, VF] } s t) ∧
    (∃ t, exec (.subnReg x y) s = .next t ∧
      (let flag := if (s.getV y).toNat > (s.getV x).toNat then 1 else 0
       let a := if s.params.vfRead = .sequential ∧ x = VF then flag else (s.getV x).toNat
       let b := if s.params.vfRead = .sequential ∧ y = VF then flag else (s.getV y).toNat
       (t.getV x).toNat = (256 + b - a) % 256 ∧ (x ≠ VF → (t.getV VF).toNat = flag)) ∧
      Frame { regs := [x, VF] } s t)

/-- R77, R78: 8xy6 writes VF = bit 0 of V[x], then V[x] / 2; 8xyE writes VF = bit SHL_FLAG_BIT (7 or 3) of V[x], then 2 V[x] modulo
256; V[y] is not read. Reads of VF after the flag write as in R67. -/
def Obligations.ShiftsSetShiftedBit : Prop :=
  Encodes 0xF00F 0x8006 (fun f => .shrReg f.x.toFin f.y.toFin) ∧
  Encodes 0xF00F 0x800E (fun f => .shlReg f.x.toFin f.y.toFin) ∧
  ∀ (x y : Reg) (s : State),
    (∃ t, exec (.shrReg x y) s = .next t ∧
      (let flag := (s.getV x).toNat % 2
       let a := if s.params.vfRead = .sequential ∧ x = VF then flag else (s.getV x).toNat
       (t.getV x).toNat = a / 2 ∧ (x ≠ VF → (t.getV VF).toNat = flag)) ∧
      Frame { regs := [x, VF] } s t) ∧
    (∃ t, exec (.shlReg x y) s = .next t ∧
      (let bit := if s.params.shlFlagBit = .bit7 then 7 else 3
       let flag := (s.getV x).toNat / 2 ^ bit % 2
       let a := if s.params.vfRead = .sequential ∧ x = VF then flag else (s.getV x).toNat
       (t.getV x).toNat = 2 * a % 256 ∧ (x ≠ VF → (t.getV VF).toNat = flag)) ∧
      Frame { regs := [x, VF] } s t)

/-- When neither x nor y is 0xF, VF_READ is unobservable in the six flag-writing instructions (42_alu.md, section 1; 44_display.md):
whatever it is, the instruction makes the same change. -/
def Obligations.VfReadUnobservable : Prop :=
  ∀ (x y : Reg) (n : Nibble) (s : State) (reading : VfRead), x ≠ VF → y ≠ VF →
    ∀ i ∈ [Instr.addReg x y, .subReg x y, .shrReg x y, .subnReg x y, .shlReg x y, .drw x y n],
      ∃ t, exec i s = .next t ∧
        exec i { s with params := { s.params with vfRead := reading } } =
          .next { t with params := { s.params with vfRead := reading } }

/-- R79: Cxnn writes a draw and nn, bit by bit; the draw is a free byte (`Config.randomDraw`, no law) and the next one is taken at
another place of it; no flag. -/
def Obligations.RandomDrawIsMasked : Prop :=
  Encodes 0xF000 0xC000 (fun f => .rnd f.x.toFin f.nn) ∧
  ∀ (x : Reg) (nn : Byte) (s : State),
    ∃ t, exec (.rnd x nn) s = .next t ∧ t.draws = s.draws + 1 ∧
      (∀ b, (t.getV x).getLsbD b = ((Config.randomDraw s.draws).getLsbD b && nn.getLsbD b)) ∧
      Frame { regs := [x], draws := true } s t

/-! ## Index register and memory transfers (43_index_memory.md) -/

/-- R80, R81, R82: Annn sets I to nnn; Fx1E adds V[x] modulo 65536; Fx29 sets it to V[x] * 5 + 0x050, not masked; no flag. -/
def Obligations.IndexRegisterWrites : Prop :=
  Encodes 0xF000 0xA000 (fun f => .ldI f.nnn) ∧ Encodes 0xF0FF 0xF01E (fun f => .addIVx f.x.toFin) ∧
  Encodes 0xF0FF 0xF029 (fun f => .ldFVx f.x.toFin) ∧
  ∀ (nnn : Addr) (x : Reg) (s : State),
    (∃ t, exec (.ldI nnn) s = .next t ∧ t.i.toNat = nnn.toNat ∧ Frame { index := true } s t) ∧
    (∃ t, exec (.addIVx x) s = .next t ∧ t.i.toNat = (s.i.toNat + (s.getV x).toNat) % 65536 ∧
      Frame { index := true } s t) ∧
    (∃ t, exec (.ldFVx x) s = .next t ∧ t.i.toNat = (s.getV x).toNat * 5 + 0x050 ∧ Frame { index := true } s t)

/-- R83: Fx33 stores the hundreds, tens and ones digits of V[x] at I, I + 1 and I + 2 (modulo 4096); every other byte, every register
and I are unchanged. -/
def Obligations.DecimalDigitsStored : Prop :=
  Encodes 0xF0FF 0xF033 (fun f => .ldBVx f.x.toFin) ∧
  ∀ (x : Reg) (s : State), ∃ t, exec (.ldBVx x) s = .next t ∧
    (t.readMem (s.indexAddr 0)).toNat = (s.getV x).toNat / 100 ∧
    (t.readMem (s.indexAddr 1)).toNat = (s.getV x).toNat / 10 % 10 ∧
    (t.readMem (s.indexAddr 2)).toNat = (s.getV x).toNat % 10 ∧
    Frame { cells := [s.indexAddr 0 % 4096, s.indexAddr 1 % 4096, s.indexAddr 2 % 4096] } s t

/-- R84: Fx55 stores V[0] to V[x], V[x] included, at I on (modulo 4096); every other byte, every register and I are unchanged. -/
def Obligations.RegistersStored : Prop :=
  Encodes 0xF0FF 0xF055 (fun f => .ldMemVx f.x.toFin) ∧
  ∀ (x : Reg) (s : State), ∃ t, exec (.ldMemVx x) s = .next t ∧
    (∀ r ≤ x, t.readMem (s.indexAddr r.val) = s.getV r) ∧
    Frame { cells := s.indexCells (List.range (x.val + 1)) } s t

/-- R85: Fx65 loads V[0] to V[x], V[x] included, from I on (modulo 4096); the registers above x, I and memory are unchanged. -/
def Obligations.RegistersLoaded : Prop :=
  Encodes 0xF0FF 0xF065 (fun f => .ldVxMem f.x.toFin) ∧
  ∀ (x : Reg) (s : State), ∃ t, exec (.ldVxMem x) s = .next t ∧
    (∀ r ≤ x, t.getV r = s.readMem (s.indexAddr r.val)) ∧
    Frame { regs := (List.finRange 16).filter (fun r => r ≤ x) } s t

/-- Registers stored by Fx55 come back by Fx65 from any state with the same memory and I (43_index_memory.md, section 2). -/
def Obligations.StoreThenLoadRestores : Prop :=
  ∀ (x : Reg) (s : State), ∃ t, exec (.ldMemVx x) s = .next t ∧
    ∀ t' : State, t'.i = t.i → (∀ a, t'.readMem a = t.readMem a) →
      ∃ u, exec (.ldVxMem x) t' = .next u ∧ ∀ r ≤ x, u.getV r = s.getV r

/-! ## Display (44_display.md) -/

/-- R86: 00E0 (bits 11-8 ignored) sets every pixel false; should_redraw is set if some pixel was set, and otherwise left; VF is not
written. -/
def Obligations.ClearDisplayClears : Prop :=
  Encodes 0xF0FF 0x00E0 (fun f => .cls f.x) ∧
  ∀ (u : Nibble) (s : State), ∃ t, exec (.cls u) s = .next t ∧ (∀ c r, t.pixel c r = false) ∧
    ((∃ c r, s.pixel c r = true) → t.shouldRedraw = true) ∧
    ((∀ c r, s.pixel c r = false) → t.shouldRedraw = s.shouldRedraw) ∧
    Frame { display := true, redraw := true } s t

/-- R87, every form and both readings of VF_READ: Dxyn is the two loops of the pseudocode, run over the pixels, the collision flag and
should_redraw alone (`drawLoop`); under sequential a coordinate register that is VF gives the live flag. -/
def Obligations.DrawFollowsLoops : Prop :=
  Encodes 0xF000 0xD000 (fun f => .drw f.x.toFin f.y.toFin f.n) ∧
  ∀ (x y : Reg) (n : Nibble) (s : State),
    let coord (r : Reg) (flag : Bool) : Byte :=
      if s.params.vfRead = .sequential ∧ r = VF then (if flag then 1 else 0) else s.getV r
    let final := drawLoop (coord x) (coord y) (fun row => s.readMem (s.i.toNat + row)) n.toNat
      { px := s.pixel, flag := false, redraw := s.shouldRedraw }
    ∃ t, exec (.drw x y n) s = .next t ∧ (∀ c r, t.pixel c r = final.px c r) ∧
      t.getV VF = (if final.flag then 1 else 0) ∧ t.shouldRedraw = final.redraw ∧
      Frame { regs := [VF], display := true, redraw := true } s t

/-- In every form whose coordinates cannot be the live flag, Dxyn flips exactly the pixels on which the sprite has a set bit, wrapping
on both axes; VF is 1 exactly when one of them was set; should_redraw is set exactly when there is one (44_display.md). -/
def Obligations.DrawXorsSprite : Prop :=
  ∀ (x y : Reg) (n : Nibble) (s : State), (s.params.vfRead = .snapshot ∨ x ≠ VF ∧ y ≠ VF) →
    ∃ t, exec (.drw x y n) s = .next t ∧
      (∀ c r, s.spriteFlips (s.getV x) (s.getV y) n.toNat c r → t.pixel c r = !s.pixel c r) ∧
      (∀ c r, ¬ s.spriteFlips (s.getV x) (s.getV y) n.toNat c r → t.pixel c r = s.pixel c r) ∧
      (t.getV VF = 1 ∨ t.getV VF = 0) ∧
      (t.getV VF = 1 ↔ ∃ c r, s.spriteFlips (s.getV x) (s.getV y) n.toNat c r ∧ s.pixel c r = true) ∧
      (t.shouldRedraw = true ↔
        s.shouldRedraw = true ∨ ∃ c r, s.spriteFlips (s.getV x) (s.getV y) n.toNat c r) ∧
      Frame { regs := [VF], display := true, redraw := true } s t

/-- Drawing the same sprite twice at the same place restores the pixels, and the second draw sets VF exactly when the sprite covers a
pixel that the first draw had set (44_display.md). With x or y = 0xF the first draw changes the place, so those forms are not of
this kind. -/
def Obligations.DrawTwiceRestores : Prop :=
  ∀ (x y : Reg) (n : Nibble) (s : State), x ≠ VF → y ≠ VF →
    ∃ t u, exec (.drw x y n) s = .next t ∧ exec (.drw x y n) t = .next u ∧
      (∀ c r, u.pixel c r = s.pixel c r) ∧
      (u.getV VF = 1 ↔ ∃ c r, s.spriteFlips (s.getV x) (s.getV y) n.toNat c r ∧ t.pixel c r = true)

/-! ## Keys and timers (45_keys_timers.md, 60_exceptions.md) -/

/-- R88, R89: Ex9E skips when V[x] is the code of a held key, ExA1 when it is not; a value above 0x0F is the code of no key. -/
def Obligations.SkipsOnKeys : Prop :=
  Encodes 0xF0FF 0xE09E (fun f => .skp f.x.toFin) ∧ Encodes 0xF0FF 0xE0A1 (fun f => .sknp f.x.toFin) ∧
  ∀ (x : Reg) (s : State),
    (∃ t, exec (.skp x) s = .next t ∧ Frame { pc := true } s t ∧
      ((∃ k : Key, (s.getV x).toNat = k.val ∧ s.held k = true) → t.pc = s.pc + 2) ∧
      ((¬ ∃ k : Key, (s.getV x).toNat = k.val ∧ s.held k = true) → t.pc = s.pc)) ∧
    (∃ t, exec (.sknp x) s = .next t ∧ Frame { pc := true } s t ∧
      ((∃ k : Key, (s.getV x).toNat = k.val ∧ s.held k = true) → t.pc = s.pc) ∧
      ((¬ ∃ k : Key, (s.getV x).toNat = k.val ∧ s.held k = true) → t.pc = s.pc + 2))

/-- R90: Fx0A with no key held sets `pc` back to its own address, and changes nothing else, so that a waiting Cycle leaves every part of
the state as it was but should_redraw, which it clears; with a key held it writes to V[x] the code that pick_key takes, one function of
the key set alone whose value is a member of it. -/
def Obligations.WaitForKey : Prop :=
  Encodes 0xF0FF 0xF00A (fun f => .ldVxK f.x.toFin) ∧
  (∀ (x : Reg) (s : State) (a : Word), (∀ k, s.held k = false) → s.pc = a + 2 →
    ∃ t, exec (.ldVxK x) s = .next t ∧ t.pc = a ∧ Frame { pc := true } s t) ∧
  (∀ (x : Reg) (s : State), (∀ k, s.held k = false) → s.fault = none → decode s.fetchWord = .instr (.ldVxK x) →
    State.transact .cycle s = .next { s with shouldRedraw := false }) ∧
  ∃ pick : Vector Bool 16 → Key, (∀ ks : Vector Bool 16, (∃ k : Key, ks[k] = true) → ks[pick ks] = true) ∧
    ∀ (x : Reg) (s : State), (∃ k, s.held k = true) →
      ∃ t, exec (.ldVxK x) s = .next t ∧ (t.getV x).toNat = (pick s.keys).val ∧ Frame { regs := [x] } s t

/-- R91, R92, R93: Fx07 reads DT into V[x]; Fx15 writes V[x] to DT; Fx18 writes V[x] to ST. -/
def Obligations.TimerRegisterTransfers : Prop :=
  Encodes 0xF0FF 0xF007 (fun f => .ldVxDt f.x.toFin) ∧ Encodes 0xF0FF 0xF015 (fun f => .ldDtVx f.x.toFin) ∧
  Encodes 0xF0FF 0xF018 (fun f => .ldStVx f.x.toFin) ∧
  ∀ (x : Reg) (s : State),
    (∃ t, exec (.ldVxDt x) s = .next t ∧ t.getV x = s.dt ∧ Frame { regs := [x] } s t) ∧
    (∃ t, exec (.ldDtVx x) s = .next t ∧ t.dt = s.getV x ∧ Frame { delay := true } s t) ∧
    (∃ t, exec (.ldStVx x) s = .next t ∧ t.st = s.getV x ∧ t.shouldBeep = (s.getV x != 0) ∧
      Frame { sound := true } s t)

/-- R109: Tick takes 1 off each timer that is above zero while the timers run, and changes nothing else; stopped, it changes nothing. -/
def Obligations.TickCountsDown : Prop :=
  ∀ s : State,
    (s.timerRunning = true → ∃ t, State.transact .tick s = .next t ∧ t.dt.toNat = s.dt.toNat - 1 ∧
      t.st.toNat = s.st.toNat - 1 ∧ Frame { delay := true, sound := true } s t) ∧
    (s.timerRunning = false → State.transact .tick s = .next s)

/-- R110: StartTimer and StopTimer set timer_running true and false and change nothing else; LoadProgram sets it true. -/
def Obligations.TimerStartStop : Prop :=
  ∀ (s : State) (program : List Byte),
    State.transact .startTimer s = .next { s with timerRunning := true } ∧
    State.transact .stopTimer s = .next { s with timerRunning := false } ∧
    ∃ t, State.transact (.loadProgram program) s = .next t ∧ t.timerRunning = true

/-- R112: ShouldBeep is true exactly when the sound timer is nonzero. -/
def Obligations.ShouldBeepWhileSounding : Prop :=
  ∀ s : State, s.outputs.shouldBeep = true ↔ s.st.toNat ≠ 0

/-- R113: KeyDown adds its key to the set and KeyUp removes it, in any state, and they change nothing else; LoadProgram keeps the set. -/
def Obligations.KeyEventsUpdateSet : Prop :=
  ∀ (k : Key) (s : State) (program : List Byte),
    (∃ keys, State.transact (.keyDown k) s = .next { s with keys := keys } ∧
      ∀ j : Key, keys[j] = (decide (j = k) || s.held j)) ∧
    (∃ keys, State.transact (.keyUp k) s = .next { s with keys := keys } ∧
      ∀ j : Key, keys[j] = (!decide (j = k) && s.held j)) ∧
    ∃ t, State.transact (.loadProgram program) s = .next t ∧ ∀ j : Key, t.held j = s.held j

/-! ## Reset and the schedule (70_reset_and_hazards.md, 00_scope.md) -/

/-- R119: the power-on state, for every choice of the parameters and of the font, and `State.reset` with FONT_ROM. -/
def Obligations.PowerOnValues : Prop :=
  let values (font : List Byte) (s : State) : Prop :=
    (∀ a, 0x050 ≤ a → a ≤ 0x09F → s.readMem a = font.getD (a - 0x050) 0) ∧
    (∀ a, a < 0x1000 → (a < 0x050 ∨ 0x09F < a) → s.readMem a = 0) ∧
    (∀ r, s.getV r = 0) ∧ s.i = 0 ∧ s.pc = 0x200 ∧ s.depth = 0 ∧ s.dt = 0 ∧ s.st = 0 ∧ s.timerRunning = false ∧
    (∀ c r, s.pixel c r = false) ∧ s.shouldRedraw = false ∧ (∀ k, s.held k = false) ∧ s.fault = none
  (∀ (p : Params) (font : Vector Byte 80), values font.toList (State.powerOn p font)) ∧ values fontRom State.reset

/-- R120: LoadProgram, for a program of any length, in any state: the writable region holds the program's first 0xE00 bytes and then
zeros, low memory and the key set are kept, everything else is reset and the timers run. -/
def Obligations.LoadProgramResets : Prop :=
  ∀ (program : List Byte) (s : State), ∃ t, State.transact (.loadProgram program) s = .next t ∧
    (∀ a, a < 0x200 → t.readMem a = s.readMem a) ∧
    (∀ k, k < min program.length 0xE00 → t.readMem (0x200 + k) = program.getD k 0) ∧
    (∀ k, min program.length 0xE00 ≤ k → k < 0xE00 → t.readMem (0x200 + k) = 0) ∧
    (∀ c r, t.pixel c r = false) ∧ t.pc = 0x200 ∧ (∀ r, t.getV r = 0) ∧ t.i = 0 ∧ t.depth = 0 ∧ t.dt = 0 ∧ t.st = 0 ∧
    t.shouldRedraw = false ∧ t.fault = none ∧ t.timerRunning = true ∧ ∀ k, t.held k = s.held k

/-- Transactions are taken whole and in the order of the schedule, which is free (00_scope.md, section 5); when none waits the step is a
Cycle, the model's own convention (log 1). -/
def Obligations.TransactionsTakenInOrder : Prop :=
  ∀ s : State, (s.inputs = [] → step s = State.transact .cycle s) ∧
    ∀ t rest, s.inputs = t :: rest → step s = State.transact t { s with inputs := rest }

/-- Timer and key events never touch memory or redirect control, and no timer event touches a key or a key event a timer
(60_exceptions.md, section 2; 20_memory.md, section 4). -/
def Obligations.EventsNeverRedirectControl : Prop :=
  ∀ (s : State) (k : Key),
    (∀ e ∈ [Transaction.tick, .startTimer, .stopTimer], ∃ dt st running,
      State.transact e s = .next { s with dt := dt, st := st, timerRunning := running }) ∧
    (∀ e ∈ [Transaction.keyDown k, .keyUp k], ∃ keys, State.transact e s = .next { s with keys := keys })

/-! ## Whole-machine rules (10_state.md) -/

/-- Every instruction, in every state, answers a next state and leaves unchanged all that the "written by" lists of 10_state.md do not
give it. -/
def Obligations.ExecTouchesOnly : Prop :=
  ∀ (i : Instr) (s : State), ∃ t, exec i s = .next t ∧ Frame (touches i s) s t

/-- Which step may write each part of the state (10_state.md, section 10): the "written by" column, read backwards. -/
def Obligations.EachPartHasItsWriters : Prop :=
  ∀ s t : State, step s = .next t →
    (∃ program, s.takes (.loadProgram program)) ∨
      ((t.keys ≠ s.keys → ∃ k, s.takes (.keyDown k) ∨ s.takes (.keyUp k)) ∧
       (t.timerRunning ≠ s.timerRunning → s.takes .startTimer ∨ s.takes .stopTimer) ∧
       (t.dt ≠ s.dt → s.takes .tick ∨ ∃ x, s.runs (.ldDtVx x)) ∧
       (t.st ≠ s.st → s.takes .tick ∨ ∃ x, s.runs (.ldStVx x)) ∧
       (t.i ≠ s.i → (∃ nnn, s.runs (.ldI nnn)) ∨ ∃ x, s.runs (.addIVx x) ∨ s.runs (.ldFVx x)) ∧
       (t.stack ≠ s.stack → (∃ nnn, s.runs (.call nnn)) ∨ ∃ u, s.runs (.ret u)) ∧
       (t.mem ≠ s.mem → ∃ x, s.runs (.ldBVx x) ∨ s.runs (.ldMemVx x)) ∧
       (t.disp ≠ s.disp → (∃ u, s.runs (.cls u)) ∨ ∃ x y n, s.runs (.drw x y n)) ∧
       (t.fault ≠ s.fault → s.fault = none ∧ ((∃ nnn, s.runs (.call nnn)) ∨ ∃ u, s.runs (.ret u))))

/-- Every step keeps the invariant: memory in canonical form, at most 16 frames, and a recorded fault that fits the state it was taken
in, for as long as it stands. The canonical form of memory (log 12) and the stack as the list of its frames (log 11) are the model's
own forms; the bound of 16 frames is R19's. -/
def Obligations.StepKeepsInvariant : Prop :=
  ∀ s t : State, s.Inv → step s = .next t → t.Inv

/-- The invariant holds at power-on, with any parameters and font, and at `State.reset`. Its canonical form of memory (log 12), with the
default font as what unlisted addresses read as (log 7), and the stack as a list (log 11) are the model's own forms. -/
def Obligations.PowerOnMeetsInvariant : Prop :=
  State.reset.Inv ∧ ∀ (p : Params) (font : Vector Byte 80), (State.powerOn p font).Inv

/-- No step changes the parameters. -/
def Obligations.StepKeepsParameters : Prop :=
  ∀ s t : State, step s = .next t → t.params = s.params

/-- No instruction reads ST or timer_running (10_state.md, section 5): changing them before an instruction changes nothing else after
it. -/
def Obligations.SoundStateUnobservable : Prop :=
  ∀ (i : Instr) (s t : State) (sound : Byte) (running : Bool), exec i s = .next t →
    exec i { s with st := sound, timerRunning := running } =
      .next { t with
        st := if (touches i s).sound then t.st else sound
        timerRunning := running }

/-! ## Disassembler (48_disassembler.md) -/

/-- R95: one line for each whole word of the buffer, in increasing address order, at the word's offset, with the text of the word, high
byte first; an odd last byte gives none. -/
def Obligations.DisassembleWalksWords : Prop :=
  ∀ buf : List Byte, (disassemble buf).length = buf.length / 2 ∧
    ∀ k, k < buf.length / 2 →
      (disassemble buf)[k]? = some
        { address := 2 * k
          mnemonic := (textOfWord (buf.getD (2 * k) 0 ++ buf.getD (2 * k + 1) 0)).1
          operands := (textOfWord (buf.getD (2 * k) 0 ++ buf.getD (2 * k + 1) 0)).2 }

/-- R98: exactly the undefined words, of all four groups, give the marker UNKNOWN, and its operand is the raw word. -/
def Obligations.UnknownMarksUndefinedWords : Prop :=
  (∀ w : Word, (∀ row ∈ opcodeMap, matchesRow w row = false) → textOfWord w = ("UNKNOWN", [textW w])) ∧
  (∀ w : Word, (∃ row ∈ opcodeMap, matchesRow w row = true) → (textOfWord w).1 ≠ "UNKNOWN") ∧
  textOfWord 0xE000 = ("UNKNOWN", ["$E000"]) ∧ textOfWord 0x801F = ("UNKNOWN", ["$801F"]) ∧
  textOfWord 0x0123 = ("UNKNOWN", ["$0123"])

/-- R96, R97: the operand texts are `$` and the upper-case hexadecimal digits of the value, or `V` and the digit of the register, and
each word's mnemonic and operands are those that the table gives its row. -/
def Obligations.TextFollowsTable : Prop :=
  (let digit (k : Nat) : Char := "0123456789ABCDEF".toList.getD (k % 16) ' '
   (∀ v : Addr, textA v = String.ofList ['$', digit (v.toNat / 256), digit (v.toNat / 16), digit v.toNat]) ∧
   (∀ v : Byte, textB v = String.ofList ['$', digit (v.toNat / 16), digit v.toNat]) ∧
   (∀ v : Nibble, textN v = String.ofList ['$', digit v.toNat]) ∧
   (∀ x : Reg, textR x = String.ofList ['V', digit x.val]) ∧
   (∀ v : Word, textW v =
     String.ofList ['$', digit (v.toNat / 4096), digit (v.toNat / 256), digit (v.toNat / 16), digit v.toNat])) ∧
  Texts 0xF0FF 0x00E0 (fun _ => ("CLS", [])) ∧
  Texts 0xF0FF 0x00EE (fun _ => ("RET", [])) ∧
  Texts 0xF000 0x1000 (fun f => ("JP", [textA f.nnn])) ∧
  Texts 0xF000 0x2000 (fun f => ("CALL", [textA f.nnn])) ∧
  Texts 0xF000 0x3000 (fun f => ("SE", [textR f.x.toFin, textB f.nn])) ∧
  Texts 0xF000 0x4000 (fun f => ("SNE", [textR f.x.toFin, textB f.nn])) ∧
  Texts 0xF000 0x5000 (fun f => ("SE", [textR f.x.toFin, textR f.y.toFin])) ∧
  Texts 0xF000 0x6000 (fun f => ("LD", [textR f.x.toFin, textB f.nn])) ∧
  Texts 0xF000 0x7000 (fun f => ("ADD", [textR f.x.toFin, textB f.nn])) ∧
  Texts 0xF00F 0x8000 (fun f => ("LD", [textR f.x.toFin, textR f.y.toFin])) ∧
  Texts 0xF00F 0x8001 (fun f => ("OR", [textR f.x.toFin, textR f.y.toFin])) ∧
  Texts 0xF00F 0x8002 (fun f => ("AND", [textR f.x.toFin, textR f.y.toFin])) ∧
  Texts 0xF00F 0x8003 (fun f => ("XOR", [textR f.x.toFin, textR f.y.toFin])) ∧
  Texts 0xF00F 0x8004 (fun f => ("ADD", [textR f.x.toFin, textR f.y.toFin])) ∧
  Texts 0xF00F 0x8005 (fun f => ("SUB", [textR f.x.toFin, textR f.y.toFin])) ∧
  Texts 0xF00F 0x8006 (fun f => ("SHR", [textR f.x.toFin, textR f.y.toFin])) ∧
  Texts 0xF00F 0x8007 (fun f => ("SUBN", [textR f.x.toFin, textR f.y.toFin])) ∧
  Texts 0xF00F 0x800E (fun f => ("SHL", [textR f.x.toFin, textR f.y.toFin])) ∧
  Texts 0xF000 0x9000 (fun f => ("SNE", [textR f.x.toFin, textR f.y.toFin])) ∧
  Texts 0xF000 0xA000 (fun f => ("LD", ["I", textA f.nnn])) ∧
  Texts 0xF000 0xB000 (fun f => ("JP", ["V0", textA f.nnn])) ∧
  Texts 0xF000 0xC000 (fun f => ("RND", [textR f.x.toFin, textB f.nn])) ∧
  Texts 0xF000 0xD000 (fun f => ("DRW", [textR f.x.toFin, textR f.y.toFin, textN f.n])) ∧
  Texts 0xF0FF 0xE09E (fun f => ("SKP", [textR f.x.toFin])) ∧
  Texts 0xF0FF 0xE0A1 (fun f => ("SKNP", [textR f.x.toFin])) ∧
  Texts 0xF0FF 0xF007 (fun f => ("LD", [textR f.x.toFin, "DT"])) ∧
  Texts 0xF0FF 0xF00A (fun f => ("LD", [textR f.x.toFin, "K"])) ∧
  Texts 0xF0FF 0xF015 (fun f => ("LD", ["DT", textR f.x.toFin])) ∧
  Texts 0xF0FF 0xF018 (fun f => ("LD", ["ST", textR f.x.toFin])) ∧
  Texts 0xF0FF 0xF01E (fun f => ("ADD", ["I", textR f.x.toFin])) ∧
  Texts 0xF0FF 0xF029 (fun f => ("LD", ["F", textR f.x.toFin])) ∧
  Texts 0xF0FF 0xF033 (fun f => ("LD", ["B", textR f.x.toFin])) ∧
  Texts 0xF0FF 0xF055 (fun f => ("LD", ["[I]", textR f.x.toFin])) ∧
  Texts 0xF0FF 0xF065 (fun f => ("LD", [textR f.x.toFin, "[I]"]))

/-- R100: the source's worked example. -/
def Obligations.DisassembleExample : Prop :=
  disassemble [0xA2, 0x02] = [{ address := 0, mnemonic := "LD", operands := ["I", "$202"] }]
end

