-- ==== Sys2Proof/Laws/Decode.lean ====
section
/-! SUPPORT. The fields of a word made by a format (R43, R46), and the bytes of a word (R35). -/

namespace Sys2Proof

@[simp] theorem regBits_toFin (x : Reg) : (regBits x).toFin = x := rfl

@[simp] theorem regBits_of_toFin (b : Nibble) : regBits b.toFin = b := rfl

/-- The fields of a word of format `XNN`, `XS` or `Z0`. -/
theorem fieldsOf_formatXNN (o x : Nibble) (nn : Byte) :
    (fieldsOf (formatXNN o x nn)).opcode = o ∧ (fieldsOf (formatXNN o x nn)).x = x ∧
      (fieldsOf (formatXNN o x nn)).nn = nn := by
  refine ⟨?_, ?_, ?_⟩ <;> apply BitVec.eq_of_getLsbD_eq <;> intro i hi <;>
    simp only [fieldsOf, formatXNN, BitVec.getLsbD_extractLsb', BitVec.getLsbD_append] <;>
    interval_cases i <;> simp

/-- The fields of a word of format `A`. -/
theorem fieldsOf_formatA (o : Nibble) (nnn : Addr) :
    (fieldsOf (formatA o nnn)).opcode = o ∧ (fieldsOf (formatA o nnn)).nnn = nnn := by
  refine ⟨?_, ?_⟩ <;> apply BitVec.eq_of_getLsbD_eq <;> intro i hi <;>
    simp only [fieldsOf, formatA, BitVec.getLsbD_extractLsb', BitVec.getLsbD_append] <;>
    interval_cases i <;> simp

/-- The fields of a word of format `XY`, `XYS` or `XYN`. -/
theorem fieldsOf_formatXYN (o x y n : Nibble) :
    (fieldsOf (formatXYN o x y n)).opcode = o ∧ (fieldsOf (formatXYN o x y n)).x = x ∧
      (fieldsOf (formatXYN o x y n)).y = y ∧ (fieldsOf (formatXYN o x y n)).n = n := by
  refine ⟨?_, ?_, ?_, ?_⟩ <;> apply BitVec.eq_of_getLsbD_eq <;> intro i hi <;>
    simp only [fieldsOf, formatXYN, BitVec.getLsbD_extractLsb', BitVec.getLsbD_append] <;>
    interval_cases i <;> simp

/-- Every word is of each format, with its own fields. -/
theorem formatXNN_fieldsOf (w : Word) : formatXNN (fieldsOf w).opcode (fieldsOf w).x (fieldsOf w).nn = w := by
  apply BitVec.eq_of_getLsbD_eq
  intro i hi
  simp only [fieldsOf, formatXNN, BitVec.getLsbD_extractLsb', BitVec.getLsbD_append]
  interval_cases i <;> simp

theorem formatA_fieldsOf (w : Word) : formatA (fieldsOf w).opcode (fieldsOf w).nnn = w := by
  apply BitVec.eq_of_getLsbD_eq
  intro i hi
  simp only [fieldsOf, formatA, BitVec.getLsbD_extractLsb', BitVec.getLsbD_append]
  interval_cases i <;> simp

theorem formatXYN_fieldsOf (w : Word) :
    formatXYN (fieldsOf w).opcode (fieldsOf w).x (fieldsOf w).y (fieldsOf w).n = w := by
  apply BitVec.eq_of_getLsbD_eq
  intro i hi
  simp only [fieldsOf, formatXYN, BitVec.getLsbD_extractLsb', BitVec.getLsbD_append]
  interval_cases i <;> simp

/-- A word is the word of its two bytes (R35). -/
@[simp] theorem wordOfBytes_bytesOfWord (w : Word) : wordOfBytes (bytesOfWord w).1 (bytesOfWord w).2 = w := by
  apply BitVec.eq_of_getLsbD_eq
  intro i hi
  simp only [wordOfBytes, bytesOfWord, BitVec.getLsbD_extractLsb', BitVec.getLsbD_append]
  interval_cases i <;> simp

/-- The masks of the opcode map read off the fields: the bits of each mask. -/
theorem mask_F000 (w : Word) : w &&& 0xF000 = formatXNN (fieldsOf w).opcode 0 0 := by
  apply BitVec.eq_of_getLsbD_eq
  intro i hi
  simp only [fieldsOf, formatXNN, BitVec.getLsbD_and, BitVec.getLsbD_extractLsb', BitVec.getLsbD_append]
  interval_cases i <;> simp

theorem mask_F0FF (w : Word) : w &&& 0xF0FF = formatXNN (fieldsOf w).opcode 0 (fieldsOf w).nn := by
  apply BitVec.eq_of_getLsbD_eq
  intro i hi
  simp only [fieldsOf, formatXNN, BitVec.getLsbD_and, BitVec.getLsbD_extractLsb', BitVec.getLsbD_append]
  interval_cases i <;> simp

theorem mask_F00F (w : Word) : w &&& 0xF00F = formatXYN (fieldsOf w).opcode 0 0 (fieldsOf w).n := by
  apply BitVec.eq_of_getLsbD_eq
  intro i hi
  simp only [fieldsOf, formatXYN, BitVec.getLsbD_and, BitVec.getLsbD_extractLsb', BitVec.getLsbD_append]
  interval_cases i <;> simp

end Sys2Proof
end

