-- ==== Sys2Proof/Laws/Memory.lean ====
section
/-! SUPPORT. Memory: a read gives what was last written (R34, R39), LoadProgram's memory (R120), and every operation keeps the canonical
form. -/

namespace Sys2Proof.Machine

/-! ## Reads over writes -/

theorem Memory.lookup_filter_ne (m : Memory) {a b : Nat} (h : b ≠ a) :
    Memory.lookup (m.filter (fun c => c.1 ≠ a)) b = Memory.lookup m b := by
  induction m with
  | nil => rfl
  | cons c m ih =>
    by_cases hc : c.1 = a
    · simp only [List.filter, hc, ne_eq, not_true_eq_false, decide_false, Memory.lookup, ih, if_neg h]
    · simp only [List.filter, hc, ne_eq, not_false_eq_true, decide_true, Memory.lookup, ih]

theorem Memory.lookup_filter_self (m : Memory) (a : Nat) :
    Memory.lookup (m.filter (fun c => c.1 ≠ a)) a = powerOnByte a := by
  induction m with
  | nil => rfl
  | cons c m ih =>
    by_cases hc : c.1 = a
    · simpa only [List.filter, hc, ne_eq, not_true_eq_false, decide_false] using ih
    · simpa only [List.filter, hc, ne_eq, not_false_eq_true, decide_true, Memory.lookup, if_neg (Ne.symm hc)] using ih

theorem Memory.lookup_insertCell (c : Host.Cell) (m : Memory) (b : Nat) (hm : ∀ d ∈ m, d.1 ≠ c.1) :
    Memory.lookup (Memory.insertCell c m) b = if b = c.1 then c.2 else Memory.lookup m b := by
  induction m with
  | nil => rfl
  | cons d m ih =>
    have hd : d.1 ≠ c.1 := hm d (by simp)
    have ih := ih fun e he => hm e (by simp [he])
    by_cases hlt : c.1 < d.1
    · simp only [Memory.insertCell, hlt, if_true, Memory.lookup]
    · simp only [Memory.insertCell, hlt, if_false, Memory.lookup, ih]
      by_cases hb : b = d.1
      · simp [hb, hd]
      · simp [hb]

/-- A cell set reads as set, every other cell as before, whatever the list. -/
theorem Memory.lookup_set (m : Memory) (a b : Nat) (w : Byte) :
    Memory.lookup (Memory.set m a w) b = if b = a then w else Memory.lookup m b := by
  unfold Memory.set
  have hm : ∀ d ∈ m.filter (fun c => c.1 ≠ a), d.1 ≠ a := by simp
  by_cases hw : w = powerOnByte a
  · rw [if_pos hw]
    by_cases hb : b = a
    · rw [hb, Memory.lookup_filter_self, if_pos rfl, hw]
    · rw [Memory.lookup_filter_ne m hb, if_neg hb]
  · rw [if_neg hw, Memory.lookup_insertCell (a, w) _ b hm]
    by_cases hb : b = a
    · simp [hb]
    · simp only [if_neg hb, Memory.lookup_filter_ne m hb]

/-- A read gives the byte last written to its cell (R34: addresses modulo 4096; R39). -/
theorem Memory.read_write (m : Memory) (a b : Nat) (w : Byte) :
    (m.write a w).read b = if b % memSize = a % memSize then w else m.read b := by
  simp only [Memory.read, Memory.write, Memory.lookup_set]

theorem State.readMem_writeMem (s : State) (a b : Nat) (w : Byte) :
    (s.writeMem a w).readMem b = if b % memSize = a % memSize then w else s.readMem b :=
  Memory.read_write s.mem a b w

/-! ## LoadProgram's memory -/

theorem Memory.lookup_append (m n : Memory) (a : Nat) :
    Memory.lookup (m ++ n) a = if ∃ c ∈ m, c.1 = a then Memory.lookup m a else Memory.lookup n a := by
  induction m with
  | nil => simp
  | cons c m ih =>
    by_cases h : a = c.1
    · simp [Memory.lookup, h]
    · have h' : ¬ c.1 = a := fun e => h e.symm
      simp [Memory.lookup, h, h', ih]

theorem Memory.lookup_of_absent (m : Memory) (a : Nat) (h : ∀ c ∈ m, c.1 ≠ a) : Memory.lookup m a = powerOnByte a := by
  induction m with
  | nil => rfl
  | cons c m ih =>
    have hc : a ≠ c.1 := fun e => h c (by simp) e.symm
    simp only [Memory.lookup, if_neg hc]
    exact ih fun d hd => h d (by simp [hd])

theorem Memory.cellsFrom_le (bs : List Byte) : ∀ a, ∀ c ∈ Memory.cellsFrom a bs, a ≤ c.1 ∧ c.1 < a + bs.length := by
  induction bs with
  | nil => intro a c hc; simp [Memory.cellsFrom] at hc
  | cons b bs ih =>
    intro a c hc
    simp only [Memory.cellsFrom] at hc
    simp only [List.length_cons]
    split at hc
    · have := ih (a + 1) c hc
      omega
    · rcases List.mem_cons.1 hc with rfl | hc
      · simp
      · have := ih (a + 1) c hc
        omega

/-- The cells of a run of bytes read as the bytes, and every other address as its power-on contents. -/
theorem Memory.lookup_cellsFrom (bs : List Byte) : ∀ a k, Memory.lookup (Memory.cellsFrom a bs) k =
    if a ≤ k ∧ k < a + bs.length then bs.getD (k - a) 0 else powerOnByte k := by
  induction bs with
  | nil =>
    intro a k
    have : ¬ (a ≤ k ∧ k < a) := by omega
    simp [Memory.cellsFrom, Memory.lookup, this]
  | cons b bs ih =>
    intro a k
    simp only [Memory.cellsFrom, List.length_cons]
    by_cases hk : k = a
    · subst hk
      have h1 : ¬ (k + 1 ≤ k ∧ k < k + 1 + bs.length) := by omega
      have h2 : k ≤ k ∧ k < k + (bs.length + 1) := by omega
      by_cases hb : b = powerOnByte k
      · rw [if_pos hb, ih, if_neg h1, if_pos h2]; simp [hb]
      · rw [if_neg hb, if_pos h2]; simp [Memory.lookup]
    · have e : (a ≤ k ∧ k < a + (bs.length + 1)) ↔ (a + 1 ≤ k ∧ k < a + 1 + bs.length) := by omega
      have g : a + 1 ≤ k → (b :: bs).getD (k - a) 0 = bs.getD (k - (a + 1)) 0 := by
        intro h
        obtain ⟨j, rfl⟩ := Nat.exists_eq_add_of_le h
        have e1 : a + 1 + j - a = j + 1 := by omega
        have e2 : a + 1 + j - (a + 1) = j := by omega
        rw [e1, e2]; simp
      have r : (if a + 1 ≤ k ∧ k < a + 1 + bs.length then bs.getD (k - (a + 1)) 0 else powerOnByte k) =
          if a ≤ k ∧ k < a + (bs.length + 1) then (b :: bs).getD (k - a) 0 else powerOnByte k := by
        by_cases h : a + 1 ≤ k ∧ k < a + 1 + bs.length
        · rw [if_pos h, if_pos (e.2 h), g h.1]
        · rw [if_neg h, if_neg fun h' => h (e.1 h')]
      split
      · rw [ih, r]
      · simp only [Memory.lookup, if_neg hk]; rw [ih, r]

theorem powerOnByte_program (a : Nat) (h : progBase ≤ a) : powerOnByte a = 0 := by
  have h1 : ¬ a < fontBase := by simp only [progBase, fontBase] at *; omega
  have h2 : fontRom.length ≤ a - fontBase := by
    have : fontRom.length = 80 := by decide
    simp only [progBase, fontBase] at *; omega
  rw [powerOnByte, if_neg h1, List.getD_eq_default _ _ h2]

/-- LoadProgram's memory (R120): below 0x200 as before, then the program's first 0xE00 bytes, then zeros. -/
theorem Memory.lookup_load (m : Memory) (program : List Byte) (a : Nat) :
    Memory.lookup (m.load program) a =
      if a < progBase then Memory.lookup m a else (program.take progMaxLen).getD (a - progBase) 0 := by
  unfold Memory.load
  rw [Memory.lookup_append]
  by_cases ha : a < progBase
  · rw [if_pos ha]
    have key : Memory.lookup (m.filter (fun c => decide (c.1 < progBase))) a = Memory.lookup m a := by
      induction m with
      | nil => rfl
      | cons c m ih =>
        by_cases hc : c.1 < progBase
        · simp only [List.filter, hc, decide_true, Memory.lookup, ih]
        · have : a ≠ c.1 := by omega
          simp only [List.filter, hc, decide_false, Memory.lookup, if_neg this, ih]
    split
    · exact key
    · rename_i hne
      rw [Memory.lookup_cellsFrom, if_neg (by omega), ← key]
      exact (Memory.lookup_of_absent _ a fun c hc e => hne ⟨c, hc, e⟩).symm
  · rw [if_neg ha, if_neg, Memory.lookup_cellsFrom]
    · split
      · rfl
      · rename_i h
        rw [powerOnByte_program a (by omega), List.getD_eq_default]
        omega
    · rintro ⟨c, hc, e⟩
      simp only [List.mem_filter, decide_eq_true_eq] at hc
      omega

/-! ## The canonical form -/

theorem Memory.rising_iff (m : Memory) : Memory.rising m = true ↔ m.Pairwise (fun c d => c.1 < d.1) := by
  induction m with
  | nil => simp [Memory.rising]
  | cons c m ih =>
    cases m with
    | nil => simp [Memory.rising]
    | cons d m =>
      simp only [Memory.rising, Bool.and_eq_true, decide_eq_true_eq, ih, List.pairwise_cons]
      constructor
      · rintro ⟨h, hd, hm⟩
        refine ⟨fun e he => ?_, hd, hm⟩
        rcases List.mem_cons.1 he with rfl | he
        · exact h
        · exact lt_trans h (hd e he)
      · rintro ⟨h, hd, hm⟩
        exact ⟨h d (by simp), hd, hm⟩

/-- The canonical form as a proposition. -/
theorem Memory.wf_iff (m : Memory) : m.wf = true ↔
    m.Pairwise (fun c d => c.1 < d.1) ∧ ∀ c ∈ m, c.1 < memSize ∧ c.2 ≠ powerOnByte c.1 := by
  simp [Memory.wf, Memory.rising_iff]

theorem Memory.mem_insertCell (c d : Host.Cell) (m : Memory) : d ∈ Memory.insertCell c m ↔ d = c ∨ d ∈ m := by
  induction m with
  | nil => simp [Memory.insertCell]
  | cons e m ih =>
    simp only [Memory.insertCell]
    split
    · simp
    · simp only [List.mem_cons, ih]; tauto

theorem Memory.pairwise_insertCell (c : Host.Cell) (m : Memory) (h : m.Pairwise (fun c d => c.1 < d.1))
    (hm : ∀ d ∈ m, d.1 ≠ c.1) : (Memory.insertCell c m).Pairwise (fun c d => c.1 < d.1) := by
  induction m with
  | nil => simp [Memory.insertCell]
  | cons e m ih =>
    obtain ⟨he, hp⟩ := List.pairwise_cons.1 h
    simp only [Memory.insertCell]
    split
    · rename_i hlt
      refine List.pairwise_cons.2 ⟨fun d hd => ?_, h⟩
      rcases List.mem_cons.1 hd with rfl | hd
      · exact hlt
      · exact lt_trans hlt (he d hd)
    · rename_i hge
      have hne := hm e (by simp)
      refine List.pairwise_cons.2 ⟨fun d hd => ?_, ih hp fun d hd => hm d (by simp [hd])⟩
      rcases (Memory.mem_insertCell c d m).1 hd with rfl | hd
      · omega
      · exact he d hd

/-- Setting a cell keeps the canonical form. -/
theorem Memory.set_wf (m : Memory) (a : Nat) (b : Byte) (ha : a < memSize) (h : m.wf = true) :
    (Memory.set m a b).wf = true := by
  rw [Memory.wf_iff] at h ⊢
  obtain ⟨hp, hc⟩ := h
  have hpf := hp.filter (fun c : Host.Cell => decide (c.1 ≠ a))
  unfold Memory.set
  split
  · exact ⟨hpf, fun c hm => hc c (List.mem_filter.1 hm).1⟩
  · rename_i hb
    refine ⟨Memory.pairwise_insertCell _ _ hpf (by simp), fun c hm => ?_⟩
    rcases (Memory.mem_insertCell _ _ _).1 hm with rfl | hm
    · exact ⟨ha, hb⟩
    · exact hc c (List.mem_filter.1 hm).1

/-- A write keeps the canonical form. -/
theorem Memory.write_wf (m : Memory) (a : Nat) (b : Byte) (h : m.wf = true) : (m.write a b).wf = true :=
  Memory.set_wf m _ b (Nat.mod_lt _ (by decide)) h

theorem Memory.cellsFrom_wf (bs : List Byte) : ∀ a, a + bs.length ≤ memSize → (Memory.cellsFrom a bs).wf = true := by
  intro a
  induction bs generalizing a with
  | nil => intro _; rfl
  | cons b bs ih =>
    intro h
    simp only [List.length_cons] at h
    have ih := (Memory.wf_iff _).1 (ih (a + 1) (by omega))
    have low := Memory.cellsFrom_le bs (a + 1)
    simp only [Memory.cellsFrom]
    split
    · exact (Memory.wf_iff _).2 ih
    · rename_i hb
      refine (Memory.wf_iff _).2 ⟨List.pairwise_cons.2 ⟨fun d hd => (low d hd).1, ih.1⟩, fun c hc => ?_⟩
      rcases List.mem_cons.1 hc with rfl | hc
      · exact ⟨by dsimp only; omega, hb⟩
      · exact ih.2 c hc

/-- LoadProgram's memory is in canonical form. -/
theorem Memory.load_wf (m : Memory) (program : List Byte) (h : m.wf = true) : (m.load program).wf = true := by
  have hm := (Memory.wf_iff _).1 h
  have hlen : progBase + (program.take progMaxLen).length ≤ memSize := by
    simp only [progBase, progMaxLen, memSize, List.length_take]; omega
  have hc := (Memory.wf_iff _).1 (Memory.cellsFrom_wf _ progBase hlen)
  have low := Memory.cellsFrom_le (program.take progMaxLen) progBase
  refine (Memory.wf_iff _).2 ⟨List.pairwise_append.2 ⟨hm.1.filter _, hc.1, fun c h1 d h2 => ?_⟩, fun c h1 => ?_⟩
  · have h1 := (List.mem_filter.1 h1).2
    have h2 := (low d h2).1
    simp only [decide_eq_true_eq] at h1
    omega
  · rcases List.mem_append.1 h1 with h1 | h1
    · exact hm.2 c (List.mem_filter.1 h1).1
    · exact hc.2 c h1

/-- Memory right after power-on is in canonical form, with the default font or any other (R33). -/
theorem State.reset_mem_wf : State.reset.mem.wf = true := rfl

theorem State.powerOn_mem_wf (p : Params) (font : Vector Byte 80) : (State.powerOn p font).mem.wf = true :=
  Memory.cellsFrom_wf _ _ (by simp [fontBase, memSize])

end Sys2Proof.Machine
end

