-- ==== Sys2Proof/Laws/State.lean ====
section
/-! SUPPORT. What each update of State does to each field, and to what the accessors read: true by rfl, so that no later proof unfolds
an update. -/

namespace Sys2Proof.Machine

/-! ## setV -/

@[simp] theorem State.setV_v (s : State) (x : Reg) (b : Byte) : (s.setV x b).v = s.v.set x.val b := rfl
@[simp] theorem State.setV_i (s : State) (x : Reg) (b : Byte) : (s.setV x b).i = s.i := rfl
@[simp] theorem State.setV_pc (s : State) (x : Reg) (b : Byte) : (s.setV x b).pc = s.pc := rfl
@[simp] theorem State.setV_stack (s : State) (x : Reg) (b : Byte) : (s.setV x b).stack = s.stack := rfl
@[simp] theorem State.setV_dt (s : State) (x : Reg) (b : Byte) : (s.setV x b).dt = s.dt := rfl
@[simp] theorem State.setV_st (s : State) (x : Reg) (b : Byte) : (s.setV x b).st = s.st := rfl
@[simp] theorem State.setV_timerRunning (s : State) (x : Reg) (b : Byte) : (s.setV x b).timerRunning = s.timerRunning := rfl
@[simp] theorem State.setV_disp (s : State) (x : Reg) (b : Byte) : (s.setV x b).disp = s.disp := rfl
@[simp] theorem State.setV_shouldRedraw (s : State) (x : Reg) (b : Byte) : (s.setV x b).shouldRedraw = s.shouldRedraw := rfl
@[simp] theorem State.setV_keys (s : State) (x : Reg) (b : Byte) : (s.setV x b).keys = s.keys := rfl
@[simp] theorem State.setV_fault (s : State) (x : Reg) (b : Byte) : (s.setV x b).fault = s.fault := rfl
@[simp] theorem State.setV_mem (s : State) (x : Reg) (b : Byte) : (s.setV x b).mem = s.mem := rfl
@[simp] theorem State.setV_params (s : State) (x : Reg) (b : Byte) : (s.setV x b).params = s.params := rfl
@[simp] theorem State.setV_draws (s : State) (x : Reg) (b : Byte) : (s.setV x b).draws = s.draws := rfl
@[simp] theorem State.setV_inputs (s : State) (x : Reg) (b : Byte) : (s.setV x b).inputs = s.inputs := rfl
@[simp] theorem State.setV_readMem (s : State) (x : Reg) (b : Byte) (a' : Nat) : (s.setV x b).readMem a' = s.readMem a' := rfl
@[simp] theorem State.setV_pixel (s : State) (x : Reg) (b : Byte) (c' : Col) (r' : Row) : (s.setV x b).pixel c' r' = s.pixel c' r' := rfl
@[simp] theorem State.setV_held (s : State) (x : Reg) (b : Byte) (k' : Key) : (s.setV x b).held k' = s.held k' := rfl
@[simp] theorem State.setV_depth (s : State) (x : Reg) (b : Byte) : (s.setV x b).depth = s.depth := rfl
@[simp] theorem State.setV_indexAddr (s : State) (x : Reg) (b : Byte) (o : Nat) : (s.setV x b).indexAddr o = s.indexAddr o := rfl

/-! ## setI -/

@[simp] theorem State.setI_v (s : State) (w : Word) : (s.setI w).v = s.v := rfl
@[simp] theorem State.setI_i (s : State) (w : Word) : (s.setI w).i = w := rfl
@[simp] theorem State.setI_pc (s : State) (w : Word) : (s.setI w).pc = s.pc := rfl
@[simp] theorem State.setI_stack (s : State) (w : Word) : (s.setI w).stack = s.stack := rfl
@[simp] theorem State.setI_dt (s : State) (w : Word) : (s.setI w).dt = s.dt := rfl
@[simp] theorem State.setI_st (s : State) (w : Word) : (s.setI w).st = s.st := rfl
@[simp] theorem State.setI_timerRunning (s : State) (w : Word) : (s.setI w).timerRunning = s.timerRunning := rfl
@[simp] theorem State.setI_disp (s : State) (w : Word) : (s.setI w).disp = s.disp := rfl
@[simp] theorem State.setI_shouldRedraw (s : State) (w : Word) : (s.setI w).shouldRedraw = s.shouldRedraw := rfl
@[simp] theorem State.setI_keys (s : State) (w : Word) : (s.setI w).keys = s.keys := rfl
@[simp] theorem State.setI_fault (s : State) (w : Word) : (s.setI w).fault = s.fault := rfl
@[simp] theorem State.setI_mem (s : State) (w : Word) : (s.setI w).mem = s.mem := rfl
@[simp] theorem State.setI_params (s : State) (w : Word) : (s.setI w).params = s.params := rfl
@[simp] theorem State.setI_draws (s : State) (w : Word) : (s.setI w).draws = s.draws := rfl
@[simp] theorem State.setI_inputs (s : State) (w : Word) : (s.setI w).inputs = s.inputs := rfl
@[simp] theorem State.setI_getV (s : State) (w : Word) (q : Reg) : (s.setI w).getV q = s.getV q := rfl
@[simp] theorem State.setI_readMem (s : State) (w : Word) (a' : Nat) : (s.setI w).readMem a' = s.readMem a' := rfl
@[simp] theorem State.setI_pixel (s : State) (w : Word) (c' : Col) (r' : Row) : (s.setI w).pixel c' r' = s.pixel c' r' := rfl
@[simp] theorem State.setI_held (s : State) (w : Word) (k' : Key) : (s.setI w).held k' = s.held k' := rfl
@[simp] theorem State.setI_depth (s : State) (w : Word) : (s.setI w).depth = s.depth := rfl

/-! ## setPc -/

@[simp] theorem State.setPc_v (s : State) (w : Word) : (s.setPc w).v = s.v := rfl
@[simp] theorem State.setPc_i (s : State) (w : Word) : (s.setPc w).i = s.i := rfl
@[simp] theorem State.setPc_pc (s : State) (w : Word) : (s.setPc w).pc = w := rfl
@[simp] theorem State.setPc_stack (s : State) (w : Word) : (s.setPc w).stack = s.stack := rfl
@[simp] theorem State.setPc_dt (s : State) (w : Word) : (s.setPc w).dt = s.dt := rfl
@[simp] theorem State.setPc_st (s : State) (w : Word) : (s.setPc w).st = s.st := rfl
@[simp] theorem State.setPc_timerRunning (s : State) (w : Word) : (s.setPc w).timerRunning = s.timerRunning := rfl
@[simp] theorem State.setPc_disp (s : State) (w : Word) : (s.setPc w).disp = s.disp := rfl
@[simp] theorem State.setPc_shouldRedraw (s : State) (w : Word) : (s.setPc w).shouldRedraw = s.shouldRedraw := rfl
@[simp] theorem State.setPc_keys (s : State) (w : Word) : (s.setPc w).keys = s.keys := rfl
@[simp] theorem State.setPc_fault (s : State) (w : Word) : (s.setPc w).fault = s.fault := rfl
@[simp] theorem State.setPc_mem (s : State) (w : Word) : (s.setPc w).mem = s.mem := rfl
@[simp] theorem State.setPc_params (s : State) (w : Word) : (s.setPc w).params = s.params := rfl
@[simp] theorem State.setPc_draws (s : State) (w : Word) : (s.setPc w).draws = s.draws := rfl
@[simp] theorem State.setPc_inputs (s : State) (w : Word) : (s.setPc w).inputs = s.inputs := rfl
@[simp] theorem State.setPc_getV (s : State) (w : Word) (q : Reg) : (s.setPc w).getV q = s.getV q := rfl
@[simp] theorem State.setPc_readMem (s : State) (w : Word) (a' : Nat) : (s.setPc w).readMem a' = s.readMem a' := rfl
@[simp] theorem State.setPc_pixel (s : State) (w : Word) (c' : Col) (r' : Row) : (s.setPc w).pixel c' r' = s.pixel c' r' := rfl
@[simp] theorem State.setPc_held (s : State) (w : Word) (k' : Key) : (s.setPc w).held k' = s.held k' := rfl
@[simp] theorem State.setPc_depth (s : State) (w : Word) : (s.setPc w).depth = s.depth := rfl
@[simp] theorem State.setPc_indexAddr (s : State) (w : Word) (o : Nat) : (s.setPc w).indexAddr o = s.indexAddr o := rfl

/-! ## setDt -/

@[simp] theorem State.setDt_v (s : State) (b : Byte) : (s.setDt b).v = s.v := rfl
@[simp] theorem State.setDt_i (s : State) (b : Byte) : (s.setDt b).i = s.i := rfl
@[simp] theorem State.setDt_pc (s : State) (b : Byte) : (s.setDt b).pc = s.pc := rfl
@[simp] theorem State.setDt_stack (s : State) (b : Byte) : (s.setDt b).stack = s.stack := rfl
@[simp] theorem State.setDt_dt (s : State) (b : Byte) : (s.setDt b).dt = b := rfl
@[simp] theorem State.setDt_st (s : State) (b : Byte) : (s.setDt b).st = s.st := rfl
@[simp] theorem State.setDt_timerRunning (s : State) (b : Byte) : (s.setDt b).timerRunning = s.timerRunning := rfl
@[simp] theorem State.setDt_disp (s : State) (b : Byte) : (s.setDt b).disp = s.disp := rfl
@[simp] theorem State.setDt_shouldRedraw (s : State) (b : Byte) : (s.setDt b).shouldRedraw = s.shouldRedraw := rfl
@[simp] theorem State.setDt_keys (s : State) (b : Byte) : (s.setDt b).keys = s.keys := rfl
@[simp] theorem State.setDt_fault (s : State) (b : Byte) : (s.setDt b).fault = s.fault := rfl
@[simp] theorem State.setDt_mem (s : State) (b : Byte) : (s.setDt b).mem = s.mem := rfl
@[simp] theorem State.setDt_params (s : State) (b : Byte) : (s.setDt b).params = s.params := rfl
@[simp] theorem State.setDt_draws (s : State) (b : Byte) : (s.setDt b).draws = s.draws := rfl
@[simp] theorem State.setDt_inputs (s : State) (b : Byte) : (s.setDt b).inputs = s.inputs := rfl
@[simp] theorem State.setDt_getV (s : State) (b : Byte) (q : Reg) : (s.setDt b).getV q = s.getV q := rfl
@[simp] theorem State.setDt_readMem (s : State) (b : Byte) (a' : Nat) : (s.setDt b).readMem a' = s.readMem a' := rfl
@[simp] theorem State.setDt_pixel (s : State) (b : Byte) (c' : Col) (r' : Row) : (s.setDt b).pixel c' r' = s.pixel c' r' := rfl
@[simp] theorem State.setDt_held (s : State) (b : Byte) (k' : Key) : (s.setDt b).held k' = s.held k' := rfl
@[simp] theorem State.setDt_depth (s : State) (b : Byte) : (s.setDt b).depth = s.depth := rfl
@[simp] theorem State.setDt_indexAddr (s : State) (b : Byte) (o : Nat) : (s.setDt b).indexAddr o = s.indexAddr o := rfl

/-! ## setSt -/

@[simp] theorem State.setSt_v (s : State) (b : Byte) : (s.setSt b).v = s.v := rfl
@[simp] theorem State.setSt_i (s : State) (b : Byte) : (s.setSt b).i = s.i := rfl
@[simp] theorem State.setSt_pc (s : State) (b : Byte) : (s.setSt b).pc = s.pc := rfl
@[simp] theorem State.setSt_stack (s : State) (b : Byte) : (s.setSt b).stack = s.stack := rfl
@[simp] theorem State.setSt_dt (s : State) (b : Byte) : (s.setSt b).dt = s.dt := rfl
@[simp] theorem State.setSt_st (s : State) (b : Byte) : (s.setSt b).st = b := rfl
@[simp] theorem State.setSt_timerRunning (s : State) (b : Byte) : (s.setSt b).timerRunning = s.timerRunning := rfl
@[simp] theorem State.setSt_disp (s : State) (b : Byte) : (s.setSt b).disp = s.disp := rfl
@[simp] theorem State.setSt_shouldRedraw (s : State) (b : Byte) : (s.setSt b).shouldRedraw = s.shouldRedraw := rfl
@[simp] theorem State.setSt_keys (s : State) (b : Byte) : (s.setSt b).keys = s.keys := rfl
@[simp] theorem State.setSt_fault (s : State) (b : Byte) : (s.setSt b).fault = s.fault := rfl
@[simp] theorem State.setSt_mem (s : State) (b : Byte) : (s.setSt b).mem = s.mem := rfl
@[simp] theorem State.setSt_params (s : State) (b : Byte) : (s.setSt b).params = s.params := rfl
@[simp] theorem State.setSt_draws (s : State) (b : Byte) : (s.setSt b).draws = s.draws := rfl
@[simp] theorem State.setSt_inputs (s : State) (b : Byte) : (s.setSt b).inputs = s.inputs := rfl
@[simp] theorem State.setSt_getV (s : State) (b : Byte) (q : Reg) : (s.setSt b).getV q = s.getV q := rfl
@[simp] theorem State.setSt_readMem (s : State) (b : Byte) (a' : Nat) : (s.setSt b).readMem a' = s.readMem a' := rfl
@[simp] theorem State.setSt_pixel (s : State) (b : Byte) (c' : Col) (r' : Row) : (s.setSt b).pixel c' r' = s.pixel c' r' := rfl
@[simp] theorem State.setSt_held (s : State) (b : Byte) (k' : Key) : (s.setSt b).held k' = s.held k' := rfl
@[simp] theorem State.setSt_depth (s : State) (b : Byte) : (s.setSt b).depth = s.depth := rfl
@[simp] theorem State.setSt_indexAddr (s : State) (b : Byte) (o : Nat) : (s.setSt b).indexAddr o = s.indexAddr o := rfl

/-! ## setRedraw -/

@[simp] theorem State.setRedraw_v (s : State) (b : Bool) : (s.setRedraw b).v = s.v := rfl
@[simp] theorem State.setRedraw_i (s : State) (b : Bool) : (s.setRedraw b).i = s.i := rfl
@[simp] theorem State.setRedraw_pc (s : State) (b : Bool) : (s.setRedraw b).pc = s.pc := rfl
@[simp] theorem State.setRedraw_stack (s : State) (b : Bool) : (s.setRedraw b).stack = s.stack := rfl
@[simp] theorem State.setRedraw_dt (s : State) (b : Bool) : (s.setRedraw b).dt = s.dt := rfl
@[simp] theorem State.setRedraw_st (s : State) (b : Bool) : (s.setRedraw b).st = s.st := rfl
@[simp] theorem State.setRedraw_timerRunning (s : State) (b : Bool) : (s.setRedraw b).timerRunning = s.timerRunning := rfl
@[simp] theorem State.setRedraw_disp (s : State) (b : Bool) : (s.setRedraw b).disp = s.disp := rfl
@[simp] theorem State.setRedraw_shouldRedraw (s : State) (b : Bool) : (s.setRedraw b).shouldRedraw = b := rfl
@[simp] theorem State.setRedraw_keys (s : State) (b : Bool) : (s.setRedraw b).keys = s.keys := rfl
@[simp] theorem State.setRedraw_fault (s : State) (b : Bool) : (s.setRedraw b).fault = s.fault := rfl
@[simp] theorem State.setRedraw_mem (s : State) (b : Bool) : (s.setRedraw b).mem = s.mem := rfl
@[simp] theorem State.setRedraw_params (s : State) (b : Bool) : (s.setRedraw b).params = s.params := rfl
@[simp] theorem State.setRedraw_draws (s : State) (b : Bool) : (s.setRedraw b).draws = s.draws := rfl
@[simp] theorem State.setRedraw_inputs (s : State) (b : Bool) : (s.setRedraw b).inputs = s.inputs := rfl
@[simp] theorem State.setRedraw_getV (s : State) (b : Bool) (q : Reg) : (s.setRedraw b).getV q = s.getV q := rfl
@[simp] theorem State.setRedraw_readMem (s : State) (b : Bool) (a' : Nat) : (s.setRedraw b).readMem a' = s.readMem a' := rfl
@[simp] theorem State.setRedraw_pixel (s : State) (b : Bool) (c' : Col) (r' : Row) : (s.setRedraw b).pixel c' r' = s.pixel c' r' := rfl
@[simp] theorem State.setRedraw_held (s : State) (b : Bool) (k' : Key) : (s.setRedraw b).held k' = s.held k' := rfl
@[simp] theorem State.setRedraw_depth (s : State) (b : Bool) : (s.setRedraw b).depth = s.depth := rfl
@[simp] theorem State.setRedraw_indexAddr (s : State) (b : Bool) (o : Nat) : (s.setRedraw b).indexAddr o = s.indexAddr o := rfl

/-! ## setTimerRunning -/

@[simp] theorem State.setTimerRunning_v (s : State) (b : Bool) : (s.setTimerRunning b).v = s.v := rfl
@[simp] theorem State.setTimerRunning_i (s : State) (b : Bool) : (s.setTimerRunning b).i = s.i := rfl
@[simp] theorem State.setTimerRunning_pc (s : State) (b : Bool) : (s.setTimerRunning b).pc = s.pc := rfl
@[simp] theorem State.setTimerRunning_stack (s : State) (b : Bool) : (s.setTimerRunning b).stack = s.stack := rfl
@[simp] theorem State.setTimerRunning_dt (s : State) (b : Bool) : (s.setTimerRunning b).dt = s.dt := rfl
@[simp] theorem State.setTimerRunning_st (s : State) (b : Bool) : (s.setTimerRunning b).st = s.st := rfl
@[simp] theorem State.setTimerRunning_timerRunning (s : State) (b : Bool) : (s.setTimerRunning b).timerRunning = b := rfl
@[simp] theorem State.setTimerRunning_disp (s : State) (b : Bool) : (s.setTimerRunning b).disp = s.disp := rfl
@[simp] theorem State.setTimerRunning_shouldRedraw (s : State) (b : Bool) : (s.setTimerRunning b).shouldRedraw = s.shouldRedraw := rfl
@[simp] theorem State.setTimerRunning_keys (s : State) (b : Bool) : (s.setTimerRunning b).keys = s.keys := rfl
@[simp] theorem State.setTimerRunning_fault (s : State) (b : Bool) : (s.setTimerRunning b).fault = s.fault := rfl
@[simp] theorem State.setTimerRunning_mem (s : State) (b : Bool) : (s.setTimerRunning b).mem = s.mem := rfl
@[simp] theorem State.setTimerRunning_params (s : State) (b : Bool) : (s.setTimerRunning b).params = s.params := rfl
@[simp] theorem State.setTimerRunning_draws (s : State) (b : Bool) : (s.setTimerRunning b).draws = s.draws := rfl
@[simp] theorem State.setTimerRunning_inputs (s : State) (b : Bool) : (s.setTimerRunning b).inputs = s.inputs := rfl
@[simp] theorem State.setTimerRunning_getV (s : State) (b : Bool) (q : Reg) : (s.setTimerRunning b).getV q = s.getV q := rfl
@[simp] theorem State.setTimerRunning_readMem (s : State) (b : Bool) (a' : Nat) : (s.setTimerRunning b).readMem a' = s.readMem a' := rfl
@[simp] theorem State.setTimerRunning_pixel (s : State) (b : Bool) (c' : Col) (r' : Row) : (s.setTimerRunning b).pixel c' r' = s.pixel c' r' := rfl
@[simp] theorem State.setTimerRunning_held (s : State) (b : Bool) (k' : Key) : (s.setTimerRunning b).held k' = s.held k' := rfl
@[simp] theorem State.setTimerRunning_depth (s : State) (b : Bool) : (s.setTimerRunning b).depth = s.depth := rfl
@[simp] theorem State.setTimerRunning_indexAddr (s : State) (b : Bool) (o : Nat) : (s.setTimerRunning b).indexAddr o = s.indexAddr o := rfl

/-! ## writeMem -/

@[simp] theorem State.writeMem_v (s : State) (a : Nat) (b : Byte) : (s.writeMem a b).v = s.v := rfl
@[simp] theorem State.writeMem_i (s : State) (a : Nat) (b : Byte) : (s.writeMem a b).i = s.i := rfl
@[simp] theorem State.writeMem_pc (s : State) (a : Nat) (b : Byte) : (s.writeMem a b).pc = s.pc := rfl
@[simp] theorem State.writeMem_stack (s : State) (a : Nat) (b : Byte) : (s.writeMem a b).stack = s.stack := rfl
@[simp] theorem State.writeMem_dt (s : State) (a : Nat) (b : Byte) : (s.writeMem a b).dt = s.dt := rfl
@[simp] theorem State.writeMem_st (s : State) (a : Nat) (b : Byte) : (s.writeMem a b).st = s.st := rfl
@[simp] theorem State.writeMem_timerRunning (s : State) (a : Nat) (b : Byte) : (s.writeMem a b).timerRunning = s.timerRunning := rfl
@[simp] theorem State.writeMem_disp (s : State) (a : Nat) (b : Byte) : (s.writeMem a b).disp = s.disp := rfl
@[simp] theorem State.writeMem_shouldRedraw (s : State) (a : Nat) (b : Byte) : (s.writeMem a b).shouldRedraw = s.shouldRedraw := rfl
@[simp] theorem State.writeMem_keys (s : State) (a : Nat) (b : Byte) : (s.writeMem a b).keys = s.keys := rfl
@[simp] theorem State.writeMem_fault (s : State) (a : Nat) (b : Byte) : (s.writeMem a b).fault = s.fault := rfl
@[simp] theorem State.writeMem_mem (s : State) (a : Nat) (b : Byte) : (s.writeMem a b).mem = s.mem.write a b := rfl
@[simp] theorem State.writeMem_params (s : State) (a : Nat) (b : Byte) : (s.writeMem a b).params = s.params := rfl
@[simp] theorem State.writeMem_draws (s : State) (a : Nat) (b : Byte) : (s.writeMem a b).draws = s.draws := rfl
@[simp] theorem State.writeMem_inputs (s : State) (a : Nat) (b : Byte) : (s.writeMem a b).inputs = s.inputs := rfl
@[simp] theorem State.writeMem_getV (s : State) (a : Nat) (b : Byte) (q : Reg) : (s.writeMem a b).getV q = s.getV q := rfl
@[simp] theorem State.writeMem_pixel (s : State) (a : Nat) (b : Byte) (c' : Col) (r' : Row) : (s.writeMem a b).pixel c' r' = s.pixel c' r' := rfl
@[simp] theorem State.writeMem_held (s : State) (a : Nat) (b : Byte) (k' : Key) : (s.writeMem a b).held k' = s.held k' := rfl
@[simp] theorem State.writeMem_depth (s : State) (a : Nat) (b : Byte) : (s.writeMem a b).depth = s.depth := rfl
@[simp] theorem State.writeMem_indexAddr (s : State) (a : Nat) (b : Byte) (o : Nat) : (s.writeMem a b).indexAddr o = s.indexAddr o := rfl

/-! ## setPixel -/

@[simp] theorem State.setPixel_v (s : State) (c : Col) (r : Row) (b : Bool) : (s.setPixel c r b).v = s.v := rfl
@[simp] theorem State.setPixel_i (s : State) (c : Col) (r : Row) (b : Bool) : (s.setPixel c r b).i = s.i := rfl
@[simp] theorem State.setPixel_pc (s : State) (c : Col) (r : Row) (b : Bool) : (s.setPixel c r b).pc = s.pc := rfl
@[simp] theorem State.setPixel_stack (s : State) (c : Col) (r : Row) (b : Bool) : (s.setPixel c r b).stack = s.stack := rfl
@[simp] theorem State.setPixel_dt (s : State) (c : Col) (r : Row) (b : Bool) : (s.setPixel c r b).dt = s.dt := rfl
@[simp] theorem State.setPixel_st (s : State) (c : Col) (r : Row) (b : Bool) : (s.setPixel c r b).st = s.st := rfl
@[simp] theorem State.setPixel_timerRunning (s : State) (c : Col) (r : Row) (b : Bool) : (s.setPixel c r b).timerRunning = s.timerRunning := rfl
@[simp] theorem State.setPixel_disp (s : State) (c : Col) (r : Row) (b : Bool) : (s.setPixel c r b).disp = s.disp.set c.val (s.disp[c].set r.val b) := rfl
@[simp] theorem State.setPixel_shouldRedraw (s : State) (c : Col) (r : Row) (b : Bool) : (s.setPixel c r b).shouldRedraw = s.shouldRedraw := rfl
@[simp] theorem State.setPixel_keys (s : State) (c : Col) (r : Row) (b : Bool) : (s.setPixel c r b).keys = s.keys := rfl
@[simp] theorem State.setPixel_fault (s : State) (c : Col) (r : Row) (b : Bool) : (s.setPixel c r b).fault = s.fault := rfl
@[simp] theorem State.setPixel_mem (s : State) (c : Col) (r : Row) (b : Bool) : (s.setPixel c r b).mem = s.mem := rfl
@[simp] theorem State.setPixel_params (s : State) (c : Col) (r : Row) (b : Bool) : (s.setPixel c r b).params = s.params := rfl
@[simp] theorem State.setPixel_draws (s : State) (c : Col) (r : Row) (b : Bool) : (s.setPixel c r b).draws = s.draws := rfl
@[simp] theorem State.setPixel_inputs (s : State) (c : Col) (r : Row) (b : Bool) : (s.setPixel c r b).inputs = s.inputs := rfl
@[simp] theorem State.setPixel_getV (s : State) (c : Col) (r : Row) (b : Bool) (q : Reg) : (s.setPixel c r b).getV q = s.getV q := rfl
@[simp] theorem State.setPixel_readMem (s : State) (c : Col) (r : Row) (b : Bool) (a' : Nat) : (s.setPixel c r b).readMem a' = s.readMem a' := rfl
@[simp] theorem State.setPixel_held (s : State) (c : Col) (r : Row) (b : Bool) (k' : Key) : (s.setPixel c r b).held k' = s.held k' := rfl
@[simp] theorem State.setPixel_depth (s : State) (c : Col) (r : Row) (b : Bool) : (s.setPixel c r b).depth = s.depth := rfl
@[simp] theorem State.setPixel_indexAddr (s : State) (c : Col) (r : Row) (b : Bool) (o : Nat) : (s.setPixel c r b).indexAddr o = s.indexAddr o := rfl

/-! ## clearDisplay -/

@[simp] theorem State.clearDisplay_v (s : State) : (s.clearDisplay).v = s.v := rfl
@[simp] theorem State.clearDisplay_i (s : State) : (s.clearDisplay).i = s.i := rfl
@[simp] theorem State.clearDisplay_pc (s : State) : (s.clearDisplay).pc = s.pc := rfl
@[simp] theorem State.clearDisplay_stack (s : State) : (s.clearDisplay).stack = s.stack := rfl
@[simp] theorem State.clearDisplay_dt (s : State) : (s.clearDisplay).dt = s.dt := rfl
@[simp] theorem State.clearDisplay_st (s : State) : (s.clearDisplay).st = s.st := rfl
@[simp] theorem State.clearDisplay_timerRunning (s : State) : (s.clearDisplay).timerRunning = s.timerRunning := rfl
@[simp] theorem State.clearDisplay_disp (s : State) : (s.clearDisplay).disp = Vector.replicate 64 (Vector.replicate 32 false) := rfl
@[simp] theorem State.clearDisplay_shouldRedraw (s : State) : (s.clearDisplay).shouldRedraw = s.shouldRedraw := rfl
@[simp] theorem State.clearDisplay_keys (s : State) : (s.clearDisplay).keys = s.keys := rfl
@[simp] theorem State.clearDisplay_fault (s : State) : (s.clearDisplay).fault = s.fault := rfl
@[simp] theorem State.clearDisplay_mem (s : State) : (s.clearDisplay).mem = s.mem := rfl
@[simp] theorem State.clearDisplay_params (s : State) : (s.clearDisplay).params = s.params := rfl
@[simp] theorem State.clearDisplay_draws (s : State) : (s.clearDisplay).draws = s.draws := rfl
@[simp] theorem State.clearDisplay_inputs (s : State) : (s.clearDisplay).inputs = s.inputs := rfl
@[simp] theorem State.clearDisplay_getV (s : State) (q : Reg) : (s.clearDisplay).getV q = s.getV q := rfl
@[simp] theorem State.clearDisplay_readMem (s : State) (a' : Nat) : (s.clearDisplay).readMem a' = s.readMem a' := rfl
@[simp] theorem State.clearDisplay_held (s : State) (k' : Key) : (s.clearDisplay).held k' = s.held k' := rfl
@[simp] theorem State.clearDisplay_depth (s : State) : (s.clearDisplay).depth = s.depth := rfl
@[simp] theorem State.clearDisplay_indexAddr (s : State) (o : Nat) : (s.clearDisplay).indexAddr o = s.indexAddr o := rfl

/-! ## setKey -/

@[simp] theorem State.setKey_v (s : State) (k : Key) (b : Bool) : (s.setKey k b).v = s.v := rfl
@[simp] theorem State.setKey_i (s : State) (k : Key) (b : Bool) : (s.setKey k b).i = s.i := rfl
@[simp] theorem State.setKey_pc (s : State) (k : Key) (b : Bool) : (s.setKey k b).pc = s.pc := rfl
@[simp] theorem State.setKey_stack (s : State) (k : Key) (b : Bool) : (s.setKey k b).stack = s.stack := rfl
@[simp] theorem State.setKey_dt (s : State) (k : Key) (b : Bool) : (s.setKey k b).dt = s.dt := rfl
@[simp] theorem State.setKey_st (s : State) (k : Key) (b : Bool) : (s.setKey k b).st = s.st := rfl
@[simp] theorem State.setKey_timerRunning (s : State) (k : Key) (b : Bool) : (s.setKey k b).timerRunning = s.timerRunning := rfl
@[simp] theorem State.setKey_disp (s : State) (k : Key) (b : Bool) : (s.setKey k b).disp = s.disp := rfl
@[simp] theorem State.setKey_shouldRedraw (s : State) (k : Key) (b : Bool) : (s.setKey k b).shouldRedraw = s.shouldRedraw := rfl
@[simp] theorem State.setKey_keys (s : State) (k : Key) (b : Bool) : (s.setKey k b).keys = s.keys.set k.val b := rfl
@[simp] theorem State.setKey_fault (s : State) (k : Key) (b : Bool) : (s.setKey k b).fault = s.fault := rfl
@[simp] theorem State.setKey_mem (s : State) (k : Key) (b : Bool) : (s.setKey k b).mem = s.mem := rfl
@[simp] theorem State.setKey_params (s : State) (k : Key) (b : Bool) : (s.setKey k b).params = s.params := rfl
@[simp] theorem State.setKey_draws (s : State) (k : Key) (b : Bool) : (s.setKey k b).draws = s.draws := rfl
@[simp] theorem State.setKey_inputs (s : State) (k : Key) (b : Bool) : (s.setKey k b).inputs = s.inputs := rfl
@[simp] theorem State.setKey_getV (s : State) (k : Key) (b : Bool) (q : Reg) : (s.setKey k b).getV q = s.getV q := rfl
@[simp] theorem State.setKey_readMem (s : State) (k : Key) (b : Bool) (a' : Nat) : (s.setKey k b).readMem a' = s.readMem a' := rfl
@[simp] theorem State.setKey_pixel (s : State) (k : Key) (b : Bool) (c' : Col) (r' : Row) : (s.setKey k b).pixel c' r' = s.pixel c' r' := rfl
@[simp] theorem State.setKey_depth (s : State) (k : Key) (b : Bool) : (s.setKey k b).depth = s.depth := rfl
@[simp] theorem State.setKey_indexAddr (s : State) (k : Key) (b : Bool) (o : Nat) : (s.setKey k b).indexAddr o = s.indexAddr o := rfl

/-! ## skip -/

@[simp] theorem State.skip_v (s : State) : (s.skip).v = s.v := rfl
@[simp] theorem State.skip_i (s : State) : (s.skip).i = s.i := rfl
@[simp] theorem State.skip_pc (s : State) : (s.skip).pc = s.pc + 2 := rfl
@[simp] theorem State.skip_stack (s : State) : (s.skip).stack = s.stack := rfl
@[simp] theorem State.skip_dt (s : State) : (s.skip).dt = s.dt := rfl
@[simp] theorem State.skip_st (s : State) : (s.skip).st = s.st := rfl
@[simp] theorem State.skip_timerRunning (s : State) : (s.skip).timerRunning = s.timerRunning := rfl
@[simp] theorem State.skip_disp (s : State) : (s.skip).disp = s.disp := rfl
@[simp] theorem State.skip_shouldRedraw (s : State) : (s.skip).shouldRedraw = s.shouldRedraw := rfl
@[simp] theorem State.skip_keys (s : State) : (s.skip).keys = s.keys := rfl
@[simp] theorem State.skip_fault (s : State) : (s.skip).fault = s.fault := rfl
@[simp] theorem State.skip_mem (s : State) : (s.skip).mem = s.mem := rfl
@[simp] theorem State.skip_params (s : State) : (s.skip).params = s.params := rfl
@[simp] theorem State.skip_draws (s : State) : (s.skip).draws = s.draws := rfl
@[simp] theorem State.skip_inputs (s : State) : (s.skip).inputs = s.inputs := rfl
@[simp] theorem State.skip_getV (s : State) (q : Reg) : (s.skip).getV q = s.getV q := rfl
@[simp] theorem State.skip_readMem (s : State) (a' : Nat) : (s.skip).readMem a' = s.readMem a' := rfl
@[simp] theorem State.skip_pixel (s : State) (c' : Col) (r' : Row) : (s.skip).pixel c' r' = s.pixel c' r' := rfl
@[simp] theorem State.skip_held (s : State) (k' : Key) : (s.skip).held k' = s.held k' := rfl
@[simp] theorem State.skip_depth (s : State) : (s.skip).depth = s.depth := rfl
@[simp] theorem State.skip_indexAddr (s : State) (o : Nat) : (s.skip).indexAddr o = s.indexAddr o := rfl

/-! ## handlerEntry -/

@[simp] theorem State.handlerEntry_v (s : State) : (s.handlerEntry).v = s.v := rfl
@[simp] theorem State.handlerEntry_i (s : State) : (s.handlerEntry).i = s.i := rfl
@[simp] theorem State.handlerEntry_pc (s : State) : (s.handlerEntry).pc = s.pc + 2 := rfl
@[simp] theorem State.handlerEntry_stack (s : State) : (s.handlerEntry).stack = s.stack := rfl
@[simp] theorem State.handlerEntry_dt (s : State) : (s.handlerEntry).dt = s.dt := rfl
@[simp] theorem State.handlerEntry_st (s : State) : (s.handlerEntry).st = s.st := rfl
@[simp] theorem State.handlerEntry_timerRunning (s : State) : (s.handlerEntry).timerRunning = s.timerRunning := rfl
@[simp] theorem State.handlerEntry_disp (s : State) : (s.handlerEntry).disp = s.disp := rfl
@[simp] theorem State.handlerEntry_shouldRedraw (s : State) : (s.handlerEntry).shouldRedraw = false := rfl
@[simp] theorem State.handlerEntry_keys (s : State) : (s.handlerEntry).keys = s.keys := rfl
@[simp] theorem State.handlerEntry_fault (s : State) : (s.handlerEntry).fault = s.fault := rfl
@[simp] theorem State.handlerEntry_mem (s : State) : (s.handlerEntry).mem = s.mem := rfl
@[simp] theorem State.handlerEntry_params (s : State) : (s.handlerEntry).params = s.params := rfl
@[simp] theorem State.handlerEntry_draws (s : State) : (s.handlerEntry).draws = s.draws := rfl
@[simp] theorem State.handlerEntry_inputs (s : State) : (s.handlerEntry).inputs = s.inputs := rfl
@[simp] theorem State.handlerEntry_getV (s : State) (q : Reg) : (s.handlerEntry).getV q = s.getV q := rfl
@[simp] theorem State.handlerEntry_readMem (s : State) (a' : Nat) : (s.handlerEntry).readMem a' = s.readMem a' := rfl
@[simp] theorem State.handlerEntry_pixel (s : State) (c' : Col) (r' : Row) : (s.handlerEntry).pixel c' r' = s.pixel c' r' := rfl
@[simp] theorem State.handlerEntry_held (s : State) (k' : Key) : (s.handlerEntry).held k' = s.held k' := rfl
@[simp] theorem State.handlerEntry_depth (s : State) : (s.handlerEntry).depth = s.depth := rfl
@[simp] theorem State.handlerEntry_indexAddr (s : State) (o : Nat) : (s.handlerEntry).indexAddr o = s.indexAddr o := rfl

/-! ## raise -/

@[simp] theorem State.raise_v (s : State) (c : Fault) (w : Word) : (s.raise c w).v = s.v := rfl
@[simp] theorem State.raise_i (s : State) (c : Fault) (w : Word) : (s.raise c w).i = s.i := rfl
@[simp] theorem State.raise_pc (s : State) (c : Fault) (w : Word) : (s.raise c w).pc = s.pc - 2 := rfl
@[simp] theorem State.raise_stack (s : State) (c : Fault) (w : Word) : (s.raise c w).stack = s.stack := rfl
@[simp] theorem State.raise_dt (s : State) (c : Fault) (w : Word) : (s.raise c w).dt = s.dt := rfl
@[simp] theorem State.raise_st (s : State) (c : Fault) (w : Word) : (s.raise c w).st = s.st := rfl
@[simp] theorem State.raise_timerRunning (s : State) (c : Fault) (w : Word) : (s.raise c w).timerRunning = s.timerRunning := rfl
@[simp] theorem State.raise_disp (s : State) (c : Fault) (w : Word) : (s.raise c w).disp = s.disp := rfl
@[simp] theorem State.raise_shouldRedraw (s : State) (c : Fault) (w : Word) : (s.raise c w).shouldRedraw = s.shouldRedraw := rfl
@[simp] theorem State.raise_keys (s : State) (c : Fault) (w : Word) : (s.raise c w).keys = s.keys := rfl
@[simp] theorem State.raise_fault (s : State) (c : Fault) (w : Word) : (s.raise c w).fault = some { cause := c, pc := s.pc - 2, word := w } := rfl
@[simp] theorem State.raise_mem (s : State) (c : Fault) (w : Word) : (s.raise c w).mem = s.mem := rfl
@[simp] theorem State.raise_params (s : State) (c : Fault) (w : Word) : (s.raise c w).params = s.params := rfl
@[simp] theorem State.raise_draws (s : State) (c : Fault) (w : Word) : (s.raise c w).draws = s.draws := rfl
@[simp] theorem State.raise_inputs (s : State) (c : Fault) (w : Word) : (s.raise c w).inputs = s.inputs := rfl
@[simp] theorem State.raise_getV (s : State) (c : Fault) (w : Word) (q : Reg) : (s.raise c w).getV q = s.getV q := rfl
@[simp] theorem State.raise_readMem (s : State) (c : Fault) (w : Word) (a' : Nat) : (s.raise c w).readMem a' = s.readMem a' := rfl
@[simp] theorem State.raise_pixel (s : State) (c : Fault) (w : Word) (c' : Col) (r' : Row) : (s.raise c w).pixel c' r' = s.pixel c' r' := rfl
@[simp] theorem State.raise_held (s : State) (c : Fault) (w : Word) (k' : Key) : (s.raise c w).held k' = s.held k' := rfl
@[simp] theorem State.raise_depth (s : State) (c : Fault) (w : Word) : (s.raise c w).depth = s.depth := rfl
@[simp] theorem State.raise_indexAddr (s : State) (c : Fault) (w : Word) (o : Nat) : (s.raise c w).indexAddr o = s.indexAddr o := rfl

/-! ## What the accessors read after an update of their own field -/

/-- A register reads as what was last written to it; the others are unchanged (R11, R13). -/
theorem State.getV_setV (s : State) (x r : Reg) (b : Byte) :
    (s.setV x b).getV r = if r = x then b else s.getV r := by
  simp only [State.getV, State.setV, Fin.getElem_fin, Vector.getElem_set]
  by_cases h : x.val = r.val
  · simp [h, Fin.ext h.symm]
  · rw [if_neg h, if_neg fun e => h (congrArg Fin.val e.symm)]

@[simp] theorem State.getV_setV_self (s : State) (x : Reg) (b : Byte) : (s.setV x b).getV x = b := by
  simp [State.getV_setV]

theorem State.getV_setV_ne (s : State) {x r : Reg} (b : Byte) (h : r ≠ x) : (s.setV x b).getV r = s.getV r := by
  simp [State.getV_setV, h]

/-- A pixel reads as what was last written to it; the others are unchanged (R23). -/
theorem State.pixel_setPixel (s : State) (c c' : Col) (r r' : Row) (b : Bool) :
    (s.setPixel c r b).pixel c' r' = if c' = c ∧ r' = r then b else s.pixel c' r' := by
  simp only [State.pixel, State.setPixel, Fin.getElem_fin, Vector.getElem_set]
  by_cases hc : c.val = c'.val
  · obtain rfl := Fin.ext hc
    by_cases hr : r.val = r'.val
    · simp [Fin.ext hr]
    · have : r' ≠ r := fun e => hr (congrArg Fin.val e.symm)
      simp [hr, this]
  · have : c' ≠ c := fun e => hc (congrArg Fin.val e.symm)
    simp [hc, this]

@[simp] theorem State.pixel_clearDisplay (s : State) (c : Col) (r : Row) : s.clearDisplay.pixel c r = false := by
  simp [State.pixel]

/-- A key is held as it was last set; the others are unchanged (R113). -/
theorem State.held_setKey (s : State) (k k' : Key) (b : Bool) :
    (s.setKey k b).held k' = if k' = k then b else s.held k' := by
  simp only [State.held, State.setKey, Fin.getElem_fin, Vector.getElem_set]
  by_cases h : k.val = k'.val
  · simp [h, Fin.ext h.symm]
  · rw [if_neg h, if_neg fun e => h (congrArg Fin.val e.symm)]

/-! ## Queries (R7, R27) -/

@[simp] theorem State.outputs_displayBuffer (s : State) : s.outputs.displayBuffer = s.disp := rfl
@[simp] theorem State.outputs_shouldRedraw (s : State) : s.outputs.shouldRedraw = s.shouldRedraw := rfl
@[simp] theorem State.outputs_shouldBeep (s : State) : s.outputs.shouldBeep = s.shouldBeep := rfl
@[simp] theorem State.outputs_programCounter (s : State) : s.outputs.programCounter = s.pc := rfl
@[simp] theorem State.outputs_registers (s : State) : s.outputs.registers = s.v := rfl
@[simp] theorem State.outputs_index (s : State) : s.outputs.index = s.i := rfl
@[simp] theorem State.outputs_delayTimer (s : State) : s.outputs.delayTimer = s.dt := rfl
@[simp] theorem State.outputs_soundTimer (s : State) : s.outputs.soundTimer = s.st := rfl
@[simp] theorem State.outputs_timerRunning (s : State) : s.outputs.timerRunning = s.timerRunning := rfl
@[simp] theorem State.outputs_faultStatus (s : State) : s.outputs.faultStatus = s.fault := rfl

/-- Two states that read alike through every accessor hold the same registers. -/
theorem State.v_ext {s t : State} (h : ∀ r, t.getV r = s.getV r) : t.v = s.v :=
  Vector.ext fun r hr => h ⟨r, hr⟩

end Sys2Proof.Machine
end

