-- ==== Sys2Proof/Laws/Ops.lean ====
section
/-! SUPPORT. One lemma per shared operation: everything it can do. -/

namespace Sys2Proof.Machine

/-! ## Return stack (R54) -/

theorem State.push_of_lt (s : State) (w : Word) (h : s.depth < stackDepth) :
    s.push w = some { s with stack := s.stack ++ [w] } := if_pos h

theorem State.push_of_full (s : State) (w : Word) (h : stackDepth ≤ s.depth) : s.push w = none :=
  if_neg (Nat.not_lt.2 h)

theorem State.pop_of_frame (s : State) {below : List Word} {w : Word} (h : s.stack = below ++ [w]) :
    s.pop = some (w, { s with stack := below }) := by
  simp [State.pop, h]

theorem State.pop_of_empty (s : State) (h : s.depth = 0) : s.pop = none := by
  simp [State.pop, List.length_eq_zero_iff.1 h]

/-- Pop takes the last frame off, or there is none. -/
theorem State.pop_cases (s : State) :
    (s.depth = 0 ∧ s.pop = none) ∨
      ∃ below w, s.stack = below ++ [w] ∧ s.pop = some (w, { s with stack := below }) := by
  rcases List.eq_nil_or_concat s.stack with h | ⟨below, w, h⟩
  · exact .inl ⟨by simp [State.depth, h], s.pop_of_empty (by simp [State.depth, h])⟩
  · have h : s.stack = below ++ [w] := by simpa using h
    exact .inr ⟨below, w, h, s.pop_of_frame h⟩

/-! ## Skips (R53) -/

theorem State.skipIf_eq (s : State) (c : Bool) : s.skipIf c = s.setPc (if c then s.pc + 2 else s.pc) := by
  cases c <;> rfl

/-! ## Flags (R15, R67) -/

theorem State.getV_setFlag (s : State) (b : Bool) (r : Reg) :
    (s.setFlag b).getV r = if r = VF then flagByte b else s.getV r := s.getV_setV VF r _

/-- What a read gives after the flag write: the flag itself for `VF` under `sequential`, else the value held at the start (R67). -/
theorem State.readAfterFlag_eq (s : State) (b : Bool) (x : Reg) :
    (s.setFlag b).readAfterFlag x (s.getV x) =
      if s.params.vfRead = .sequential ∧ x = VF then flagByte b else s.getV x := by
  have hp : (s.setFlag b).params = s.params := rfl
  unfold State.readAfterFlag
  rw [hp]
  cases s.params.vfRead
  · simp [State.getV_setFlag]
  · simp

/-- A flag-writing ALU instruction as one pair of register writes, the destination last (R67). -/
theorem State.flagged_eq (s : State) (x y : Reg) (flag : Bool) (op : Byte → Byte → Byte) :
    s.flagged x y flag op = (s.setFlag flag).setV x
      (op (if s.params.vfRead = .sequential ∧ x = VF then flagByte flag else s.getV x)
        (if s.params.vfRead = .sequential ∧ y = VF then flagByte flag else s.getV y)) := by
  rw [State.flagged, State.readAfterFlag_eq, State.readAfterFlag_eq]

/-! ## Registers of a transfer (R84, R85) -/

theorem mem_regsUpTo (x r : Reg) : r ∈ regsUpTo x ↔ r ≤ x := by
  revert x r; decide

theorem nodup_regsUpTo (x : Reg) : (regsUpTo x).Nodup := by
  revert x; decide

/-! ## Keys (R90) -/

theorem mem_heldKeys (keys : Vector Bool 16) (k : Key) : k ∈ heldKeys keys ↔ keys[k] = true := by
  simp [heldKeys]

theorem heldKeys_isEmpty (keys : Vector Bool 16) : (heldKeys keys).isEmpty = true ↔ ∀ k : Key, keys[k] = false := by
  rw [List.isEmpty_iff, List.eq_nil_iff_forall_not_mem]
  simp [mem_heldKeys]

/-- pick_key takes a member of the set, whatever the free value `Config.pickRank` is (R90). -/
theorem pickKey_held (keys : Vector Bool 16) (h : ∃ k : Key, keys[k] = true) : keys[pickKey keys] = true := by
  obtain ⟨k, hk⟩ := h
  have hpos : 0 < (heldKeys keys).length := List.length_pos_of_mem ((mem_heldKeys keys k).2 hk)
  have hlt := Nat.mod_lt (Config.pickRank keys) hpos
  have : pickKey keys ∈ heldKeys keys := by
    rw [pickKey, List.getD_eq_getElem _ _ hlt]
    exact List.getElem_mem hlt
  exact (mem_heldKeys keys _).1 this

/-! ## Drawing (R87) -/

/-- Plotting touches the pixel, should_redraw and `VF`, and nothing else. -/
theorem State.plot_eq (s : State) (c : Col) (r : Row) (old new : Bool) :
    s.plot c r old new =
      { s with
        disp := s.disp.set c.val (s.disp[c].set r.val new)
        shouldRedraw := if new != old then true else s.shouldRedraw
        v := if old && !new then s.v.set 15 1 else s.v } := by
  cases old <;> cases new <;> rfl

/-- Drawing a bit touches the display, should_redraw and `VF`, and nothing else. -/
theorem State.drawBit_keeps (x y : Reg) (vx vy : Byte) (s : State) (p : Nat × Nat) :
    ∃ disp redraw v, State.drawBit x y vx vy s p = { s with disp := disp, shouldRedraw := redraw, v := v } ∧
      (∀ r : Reg, r ≠ VF → v[r] = s.v[r]) := by
  refine ⟨_, _, _, State.plot_eq _ _ _ _ _, fun r hr => ?_⟩
  have : ¬ (15 : Nat) = r.val := fun e => hr (Fin.ext e.symm)
  split
  · simp [this]
  · rfl

/-- A draw touches the display, should_redraw and `VF`, and nothing else: the loops keep the sprite's memory and address. -/
theorem State.drawBits_keep (x y : Reg) (vx vy : Byte) (ps : List (Nat × Nat)) (s : State) :
    ∃ disp redraw v, ps.foldl (State.drawBit x y vx vy) s = { s with disp := disp, shouldRedraw := redraw, v := v } ∧
      (∀ r : Reg, r ≠ VF → v[r] = s.v[r]) := by
  induction ps generalizing s with
  | nil => exact ⟨s.disp, s.shouldRedraw, s.v, rfl, fun _ _ => rfl⟩
  | cons p ps ih =>
    obtain ⟨d, q, v, h, hv⟩ := State.drawBit_keeps x y vx vy s p
    obtain ⟨d', q', v', h', hv'⟩ := ih (State.drawBit x y vx vy s p)
    refine ⟨d', q', v', ?_, fun r hr => ?_⟩
    · rw [List.foldl_cons, h', h]
    · rw [hv' r hr, h]; exact hv r hr

theorem mem_spriteBits (n : Nat) (p : Nat × Nat) : p ∈ spriteBits n ↔ p.1 < n ∧ p.2 < 8 := by
  simp only [spriteBits, List.mem_flatMap, List.mem_range, List.mem_map]
  constructor
  · rintro ⟨row, hrow, k, hk, rfl⟩; exact ⟨hrow, hk⟩
  · rintro ⟨h1, h2⟩; exact ⟨p.1, h1, p.2, h2, rfl⟩

/-! ## Multi-byte transfers (R83-R85) -/

/-- Fx55's loop touches memory only. -/
theorem State.storeRegs_keep (rs : List Reg) (s : State) :
    ∃ m, rs.foldl State.storeReg s = { s with mem := m } ∧ (s.mem.wf = true → m.wf = true) := by
  induction rs generalizing s with
  | nil => exact ⟨s.mem, rfl, id⟩
  | cons r rs ih =>
    obtain ⟨m, h, hw⟩ := ih (s.storeReg r)
    refine ⟨m, ?_, fun hs => hw (Memory.write_wf _ _ _ hs)⟩
    rw [List.foldl_cons, h]; rfl

/-- Fx65's loop touches registers only. -/
theorem State.loadRegs_keep (rs : List Reg) (s : State) :
    ∃ v, rs.foldl State.loadReg s = { s with v := v } := by
  induction rs generalizing s with
  | nil => exact ⟨s.v, rfl⟩
  | cons r rs ih =>
    obtain ⟨v, h⟩ := ih (s.loadReg r)
    exact ⟨v, by rw [List.foldl_cons, h]; rfl⟩

/-! ## The step (R8, R50, R52, R55) -/

/-- What a Cycle answers: nothing changes while a fault is recorded; else the decoded instruction runs, or an undefined word is a
no-op. -/
theorem State.cycle_cases (s : State) :
    (s.fault ≠ none ∧ s.cycle = .next s) ∨
      (s.fault = none ∧ ((∃ i, decode s.fetchWord = .instr i ∧ s.cycle = exec i s.handlerEntry) ∨
        ∃ g, decode s.fetchWord = .undefined g ∧ s.cycle = .next s.handlerEntry)) := by
  unfold State.cycle
  cases hf : s.fault with
  | some f => exact .inl ⟨by simp, by simp⟩
  | none =>
    cases hd : decode s.fetchWord with
    | instr i => exact .inr ⟨rfl, .inl ⟨i, rfl, by simp⟩⟩
    | undefined g => exact .inr ⟨rfl, .inr ⟨g, rfl, by simp⟩⟩

/-- What a step takes: Cycle when no transaction waits, else the oldest one. -/
theorem step_cases (s : State) :
    (s.inputs = [] ∧ step s = s.cycle) ∨
      ∃ t rest, s.inputs = t :: rest ∧ step s = State.transact t { s with inputs := rest } := by
  unfold step State.advance
  cases h : s.inputs with
  | nil => exact .inl ⟨rfl, rfl⟩
  | cons t rest => exact .inr ⟨t, rest, rfl, rfl⟩

end Sys2Proof.Machine
end

