-- ==== Sys2Proof/Laws/PerInstr.lean ====
section
/-! SUPPORT. The per-instruction family RowMatch: the word of an instruction matches its row of the opcode map (R48). -/

namespace Sys2Proof.Laws.RowMatch

/-- The word of `i` matches its row: `w & mask == match` (R48). -/
def Statement (i : Instr) : Prop := encode i &&& rowMask i = rowMatch i

theorem of_F000 (o x : Nibble) (nn : Byte) : formatXNN o x nn &&& 0xF000 = formatXNN o 0 0 := by
  rw [mask_F000, (fieldsOf_formatXNN o x nn).1]

theorem of_F0FF (o x : Nibble) (nn : Byte) : formatXNN o x nn &&& 0xF0FF = formatXNN o 0 nn := by
  obtain ⟨ho, -, hn⟩ := fieldsOf_formatXNN o x nn
  rw [mask_F0FF, ho, hn]

theorem of_A (o : Nibble) (nnn : Addr) : formatA o nnn &&& 0xF000 = formatXNN o 0 0 := by
  rw [mask_F000, (fieldsOf_formatA o nnn).1]

theorem of_XY (o x y n : Nibble) : formatXYN o x y n &&& 0xF000 = formatXNN o 0 0 := by
  rw [mask_F000, (fieldsOf_formatXYN o x y n).1]

theorem of_F00F (o x y n : Nibble) : formatXYN o x y n &&& 0xF00F = formatXYN o 0 0 n := by
  obtain ⟨ho, -, -, hn⟩ := fieldsOf_formatXYN o x y n
  rw [mask_F00F, ho, hn]

theorem cls (u : Nibble) : Statement (.cls u) := of_F0FF ..

theorem ret (u : Nibble) : Statement (.ret u) := of_F0FF ..

theorem jp (nnn : Addr) : Statement (.jp nnn) := of_A ..

theorem call (nnn : Addr) : Statement (.call nnn) := of_A ..

theorem seImm (x : Reg) (nn : Byte) : Statement (.seImm x nn) := of_F000 ..

theorem sneImm (x : Reg) (nn : Byte) : Statement (.sneImm x nn) := of_F000 ..

theorem seReg (x : Reg) (y : Reg) (u : Nibble) : Statement (.seReg x y u) := of_XY ..

theorem ldImm (x : Reg) (nn : Byte) : Statement (.ldImm x nn) := of_F000 ..

theorem addImm (x : Reg) (nn : Byte) : Statement (.addImm x nn) := of_F000 ..

theorem ldReg (x : Reg) (y : Reg) : Statement (.ldReg x y) := of_F00F ..

theorem orReg (x : Reg) (y : Reg) : Statement (.orReg x y) := of_F00F ..

theorem andReg (x : Reg) (y : Reg) : Statement (.andReg x y) := of_F00F ..

theorem xorReg (x : Reg) (y : Reg) : Statement (.xorReg x y) := of_F00F ..

theorem addReg (x : Reg) (y : Reg) : Statement (.addReg x y) := of_F00F ..

theorem subReg (x : Reg) (y : Reg) : Statement (.subReg x y) := of_F00F ..

theorem shrReg (x : Reg) (y : Reg) : Statement (.shrReg x y) := of_F00F ..

theorem subnReg (x : Reg) (y : Reg) : Statement (.subnReg x y) := of_F00F ..

theorem shlReg (x : Reg) (y : Reg) : Statement (.shlReg x y) := of_F00F ..

theorem sneReg (x : Reg) (y : Reg) (u : Nibble) : Statement (.sneReg x y u) := of_XY ..

theorem ldI (nnn : Addr) : Statement (.ldI nnn) := of_A ..

theorem jpV0 (nnn : Addr) : Statement (.jpV0 nnn) := of_A ..

theorem rnd (x : Reg) (nn : Byte) : Statement (.rnd x nn) := of_F000 ..

theorem drw (x : Reg) (y : Reg) (n : Nibble) : Statement (.drw x y n) := of_XY ..

theorem skp (x : Reg) : Statement (.skp x) := of_F0FF ..

theorem sknp (x : Reg) : Statement (.sknp x) := of_F0FF ..

theorem ldVxDt (x : Reg) : Statement (.ldVxDt x) := of_F0FF ..

theorem ldVxK (x : Reg) : Statement (.ldVxK x) := of_F0FF ..

theorem ldDtVx (x : Reg) : Statement (.ldDtVx x) := of_F0FF ..

theorem ldStVx (x : Reg) : Statement (.ldStVx x) := of_F0FF ..

theorem addIVx (x : Reg) : Statement (.addIVx x) := of_F0FF ..

theorem ldFVx (x : Reg) : Statement (.ldFVx x) := of_F0FF ..

theorem ldBVx (x : Reg) : Statement (.ldBVx x) := of_F0FF ..

theorem ldMemVx (x : Reg) : Statement (.ldMemVx x) := of_F0FF ..

theorem ldVxMem (x : Reg) : Statement (.ldVxMem x) := of_F0FF ..

end Sys2Proof.Laws.RowMatch
end

