-- ==== Sys2Proof/Tests/Slice0.lean ====
section
/-! SUPPORT. The model's own tests: ill-formed terms refused, words written out from the formats of 30_encoding.md, vectors of
95_test_vectors.md (named in each comment), one step each, and witnesses that meet the hypotheses of the statements. -/

namespace Sys2Proof.Tests

open Sys2Proof Sys2Proof.Machine

/-- Power-on, changed by `setup`, with the word `w` at `pc`. -/
def start (w : Nat) (setup : State → State) : State := (setup State.reset).withFetchWord 16 w

/-- What `view` shows of the state after one step from `start`. -/
def after {α : Type} (w : Nat) (setup : State → State) (view : State → α) : Option α :=
  match step (start w setup) with
  | .next t => some (view t)
  | .fault _ => none
  | .refused _ => none

/-- What `view` shows of the state after the transaction `e`. -/
def afterEvent {α : Type} (e : Transaction) (s : State) (view : State → α) : Option α :=
  match step { s with inputs := [e] } with
  | .next t => some (view t)
  | .fault _ => none
  | .refused _ => none

/-- The other VF_READ reading (R67). -/
def snapshot (s : State) : State := { s with params := { s.params with vfRead := .snapshot } }

/-- The other SHL_FLAG_BIT (R78). -/
def bit3 (s : State) : State := { s with params := { s.params with shlFlagBit := .bit3 } }

/-- `count` bytes of memory from `a` on. -/
def bytesAt (s : State) (a count : Nat) : List Byte := (List.range count).map (fun k => s.readMem (a + k))

/-- The pixels of `cells` that are set. -/
def setAmong (s : State) (cells : List (Col × Row)) : List (Col × Row) := cells.filter fun p => s.pixel p.1 p.2

/-! ## Well-formedness: each check refuses an ill-formed term -/

theorem test_fields_wellFormed : (fieldsOf 0xD125).wellFormed = true := by decide

theorem test_fields_nnn_not_x_nn :
    Fields.wellFormed { opcode := 0xD, x := 1, y := 2, nnn := 0x225, nn := 0x25, n := 5 } = false := by decide

theorem test_fields_nn_not_y_n :
    Fields.wellFormed { opcode := 0xD, x := 1, y := 2, nnn := 0x135, nn := 0x35, n := 5 } = false := by decide

theorem test_noncanonical_refused :
    (Instr.cls 5).isCanonical = false ∧ (Instr.ret 0xF).isCanonical = false ∧ (Instr.seReg 1 2 5).isCanonical = false ∧
    (Instr.sneReg 1 2 1).isCanonical = false ∧ (Instr.cls 0).isCanonical = true ∧
    (Instr.drw 1 2 5).isCanonical = true := by decide

/-! ## Decoding: one word of each constructor, written bit by bit from the formats of R46 and the subcodes of R47 -/

theorem test_decode_flow :
    decode 0b0000_0000_1110_0000 = .instr (.cls 0x0) ∧ decode 0b0000_0000_1110_1110 = .instr (.ret 0x0) ∧
    decode 0b0001_1010_1011_1100 = .instr (.jp 0xABC) ∧ decode 0b0010_0100_0000_0001 = .instr (.call 0x401) ∧
    decode 0b1011_0011_0000_0001 = .instr (.jpV0 0x301) := by decide

theorem test_decode_skips :
    decode 0b0011_0010_0011_0100 = .instr (.seImm 0x2 0x34) ∧ decode 0b0100_0010_0011_0100 = .instr (.sneImm 0x2 0x34) ∧
    decode 0b0101_0001_0010_0101 = .instr (.seReg 0x1 0x2 0x5) ∧
    decode 0b1001_0001_0010_0000 = .instr (.sneReg 0x1 0x2 0x0) ∧ decode 0b1110_1100_1001_1110 = .instr (.skp 0xC) ∧
    decode 0b1110_1100_1010_0001 = .instr (.sknp 0xC) := by decide

theorem test_decode_loads :
    decode 0b0110_0001_0000_1010 = .instr (.ldImm 0x1 0x0A) ∧ decode 0b0111_1100_1111_1111 = .instr (.addImm 0xC 0xFF) ∧
    decode 0b1000_1010_1011_0000 = .instr (.ldReg 0xA 0xB) ∧
    decode 0b1100_0011_0000_1111 = .instr (.rnd 0x3 0x0F) := by decide

theorem test_decode_alu :
    decode 0b1000_1010_1011_0001 = .instr (.orReg 0xA 0xB) ∧ decode 0b1000_1010_1011_0010 = .instr (.andReg 0xA 0xB) ∧
    decode 0b1000_1010_1011_0011 = .instr (.xorReg 0xA 0xB) ∧ decode 0b1000_1010_1011_0100 = .instr (.addReg 0xA 0xB) ∧
    decode 0b1000_1010_1011_0101 = .instr (.subReg 0xA 0xB) ∧ decode 0b1000_1010_1011_0110 = .instr (.shrReg 0xA 0xB) ∧
    decode 0b1000_1010_1011_0111 = .instr (.subnReg 0xA 0xB) ∧
    decode 0b1000_1010_1011_1110 = .instr (.shlReg 0xA 0xB) := by decide

theorem test_decode_index_memory_display :
    decode 0b1010_0001_0010_0011 = .instr (.ldI 0x123) ∧ decode 0b1101_0001_0010_0101 = .instr (.drw 0x1 0x2 0x5) ∧
    decode 0b1111_0110_0001_1110 = .instr (.addIVx 0x6) ∧ decode 0b1111_0110_0010_1001 = .instr (.ldFVx 0x6) ∧
    decode 0b1111_0110_0011_0011 = .instr (.ldBVx 0x6) ∧ decode 0b1111_0110_0101_0101 = .instr (.ldMemVx 0x6) ∧
    decode 0b1111_0110_0110_0101 = .instr (.ldVxMem 0x6) := by decide

theorem test_decode_timers_keys :
    decode 0b1111_0110_0000_0111 = .instr (.ldVxDt 0x6) ∧ decode 0b1111_0110_0000_1010 = .instr (.ldVxK 0x6) ∧
    decode 0b1111_0110_0001_0101 = .instr (.ldDtVx 0x6) ∧ decode 0b1111_0110_0001_1000 = .instr (.ldStVx 0x6) := by
  decide

/-- R49: an undefined word of each group, and a byte missing. -/
theorem test_decode_undefined :
    decode 0x0000 = .undefined .group0 ∧ decode 0x8008 = .undefined .group8 ∧ decode 0xE000 = .undefined .groupE ∧
    decode 0xF0FF = .undefined .groupF ∧ decodeBytes [0xA2] = .rejected .truncated ∧
    decodeBytes [0x80, 0x08] = .rejected (.undefinedWord 0x8008 .group8) := by decide

/-- R35: the high byte stands first. -/
theorem test_decode_bytes_high_first : decodeBytes [0xA2, 0x02, 0x12] = .instr (.ldI 0x202) [0x12] := by decide

theorem test_decodeTableWord : decodeTableWord 16 0xA202 = some (.ldI 0x202) ∧ decodeTableWord 16 0x8008 = none := by
  decide

/-- R43's slices (vector `0x8AB6`). -/
theorem test_fields_8AB6 :
    fieldsOf 0x8AB6 = { opcode := 0x8, x := 0xA, y := 0xB, nnn := 0xAB6, nn := 0xB6, n := 0x6 } := by decide

/-! ## Cycle and undefined words -/

/-- CY1. -/
theorem test_undefined_is_noop : after 0x8008 id (fun t => (t.pc, t.fault)) = some (0x202, none) := by decide

/-- CY6: the fetch wraps at the top of memory. -/
theorem test_fetch_wraps :
    after 0x6012 (fun s => s.setPc 0x0FFF) (fun t => (t.getV 0, t.pc, t.readMem 0xFFF, t.readMem 0)) =
      some (0x12, 0x1001, 0x60, 0x12) := by decide

/-- CY7: the Cycle clears should_redraw. -/
theorem test_cycle_clears_redraw : after 0x6000 (fun s => s.setRedraw true) State.shouldRedraw = some false := by decide

/-- CY8: a fault recorded holds the Cycle. -/
theorem test_faulted_cycle :
    (match step { State.reset with
        shouldRedraw := true
        fault := some { cause := .stackUnderflow, pc := 0x200, word := 0x00EE } } with
      | .next t => decide (t.pc = 0x200 ∧ t.shouldRedraw = true ∧
          t.fault = some { cause := .stackUnderflow, pc := 0x200, word := 0x00EE })
      | _ => false) = true := by decide

/-- R101: the codes of the causes; R56: a recorded fault is a fault outcome. -/
theorem test_fault_codes : Fault.code .stackOverflow = 1 ∧ Fault.code .stackUnderflow = 2 := by decide

theorem test_verdict_of_fault :
    (State.reset.raise .stackUnderflow 0x00EE).verdict = .fault .stackUnderflow ∧
    State.reset.verdict = .next State.reset := ⟨rfl, rfl⟩

/-! ## Control transfer and skips -/

/-- FL1. -/
theorem test_jp : after 0x1ABC id State.pc = some 0x0ABC := by decide

/-- FL12: the return address wraps at 16 bits. -/
theorem test_call_wraps : after 0x2400 (fun s => s.setPc 0xFFFE) (fun t => (t.stack, t.pc)) = some ([0], 0x0400) := by
  decide

/-- FL7. -/
theorem test_call_overflow :
    after 0x2500 (fun s => { s with pc := 0x300, stack := List.replicate 16 0x206 }) (fun t => (t.fault, t.pc, t.depth)) =
      some (some { cause := .stackOverflow, pc := 0x300, word := 0x2500 }, 0x300, 16) := by decide

/-- FL5: bits 11-8 are ignored. -/
theorem test_ret : after 0x0FEE (fun s => { s with pc := 0x212, stack := [0x206] }) (fun t => (t.pc, t.depth)) =
    some (0x206, 0) := by decide

/-- FL6. -/
theorem test_ret_underflow :
    after 0x00EE (fun s => s.setPc 0x300) (fun t => (t.fault, t.pc)) =
      some (some { cause := .stackUnderflow, pc := 0x300, word := 0x00EE }, 0x300) := by decide

/-- FL9 and FL11: not wrapped to 12 bits, and V0 only. -/
theorem test_jpV0 : after 0xBFFF (fun s => s.setV 0 0xFF) State.pc = some 0x10FE := by decide

theorem test_jpV0_reads_V0 : after 0xB300 (fun s => s.setV 5 0x10) State.pc = some 0x300 := by decide

/-- SK1, SK2. -/
theorem test_seImm : after 0x3233 (fun s => s.setV 2 0x33) State.pc = some 0x204 ∧
    after 0x3234 (fun s => s.setV 2 0x33) State.pc = some 0x202 := by decide

/-- SK12: the skip wraps at 16 bits. -/
theorem test_skip_wraps : after 0x3000 (fun s => s.setPc 0xFFFC) State.pc = some 0 := by decide

/-- SK3, SK4. -/
theorem test_sneImm : after 0x4234 (fun s => s.setV 2 0x33) State.pc = some 0x204 ∧
    after 0x4233 (fun s => s.setV 2 0x33) State.pc = some 0x202 := by decide

/-- SK6, SK7. -/
theorem test_seReg : after 0x5125 (fun s => (s.setV 1 7).setV 2 7) State.pc = some 0x204 ∧
    after 0x5120 (fun s => (s.setV 1 7).setV 2 8) State.pc = some 0x202 := by decide

/-- SK8, SK9. -/
theorem test_sneReg : after 0x9120 (fun s => (s.setV 1 7).setV 2 8) State.pc = some 0x204 ∧
    after 0x9120 (fun s => (s.setV 1 7).setV 2 7) State.pc = some 0x202 := by decide

/-! ## Loads and ALU -/

/-- LD2. -/
theorem test_ldImm_VF : after 0x6FAA id (fun t => t.getV VF) = some 0xAA := by decide

/-- S2 and LD4: no flag, also with VF as the destination. -/
theorem test_addImm : after 0x7001 (fun s => s.setV 0 0xFF) (fun t => (t.getV 0, t.getV VF)) = some (0, 0) ∧
    after 0x7F01 (fun s => s.setV VF 0xFF) (fun t => t.getV VF) = some 0 := by decide

/-- LD6. -/
theorem test_ldReg : after 0x8010 (fun s => s.setV 1 0x2A) (fun t => (t.getV 0, t.getV 1)) = some (0x2A, 0x2A) := by decide

/-- BW1: VF is kept. -/
theorem test_orReg : after 0x8011 (fun s => ((s.setV 0 0xF0).setV 1 0x0F).setV VF 7) (fun t => (t.getV 0, t.getV VF)) =
    some (0xFF, 7) := by decide

/-- BW2. -/
theorem test_andReg : after 0x8012 (fun s => (s.setV 0 0xF0).setV 1 0x3C) (fun t => t.getV 0) = some 0x30 := by decide

/-- BW3. -/
theorem test_xorReg : after 0x8013 (fun s => (s.setV 0 0xFF).setV 1 0x0F) (fun t => t.getV 0) = some 0xF0 := by decide

/-- S3 (AR1), AR2. -/
theorem test_addReg :
    after 0x8014 (fun s => (s.setV 0 0xFF).setV 1 1) (fun t => (t.getV 0, t.getV VF)) = some (0, 1) ∧
    after 0x8014 (fun s => (s.setV 0 0x80).setV 1 0x7F) (fun t => (t.getV 0, t.getV VF)) = some (0xFF, 0) := by decide

/-- VF3 and VF5: both readings. -/
theorem test_addReg_VF :
    after 0x80F4 (fun s => (s.setV 0 0xFF).setV VF 5) (fun t => (t.getV 0, t.getV VF)) = some (0, 1) ∧
    after 0x80F4 (fun s => snapshot ((s.setV 0 0xFF).setV VF 5)) (fun t => (t.getV 0, t.getV VF)) = some (4, 1) ∧
    after 0x8FF4 (fun s => s.setV VF 0x10) (fun t => t.getV VF) = some 0 ∧
    after 0x8FF4 (fun s => snapshot (s.setV VF 0x10)) (fun t => t.getV VF) = some 0x20 := by decide

/-- S4 (AR6), AR7: strictly greater. -/
theorem test_subReg :
    after 0x8015 (fun s => (s.setV 0 5).setV 1 10) (fun t => (t.getV 0, t.getV VF)) = some (251, 0) ∧
    after 0x8015 (fun s => (s.setV 0 7).setV 1 7) (fun t => (t.getV 0, t.getV VF)) = some (0, 0) := by decide

/-- VF6 and VF7: both readings. -/
theorem test_subReg_VF :
    after 0x8F15 (fun s => (s.setV VF 0x10).setV 1 1) (fun t => t.getV VF) = some 0 ∧
    after 0x8F15 (fun s => snapshot ((s.setV VF 0x10).setV 1 1)) (fun t => t.getV VF) = some 0x0F ∧
    after 0x80F5 (fun s => (s.setV 0 0x10).setV VF 3) (fun t => (t.getV 0, t.getV VF)) = some (0x0F, 1) ∧
    after 0x80F5 (fun s => snapshot ((s.setV 0 0x10).setV VF 3)) (fun t => (t.getV 0, t.getV VF)) = some (0x0D, 1) := by
  decide

/-- SH1, SH4: `V[y]` is not read. -/
theorem test_shrReg :
    after 0x8006 (fun s => s.setV 0 5) (fun t => (t.getV 0, t.getV VF)) = some (2, 1) ∧
    after 0x8016 (fun s => (s.setV 0 4).setV 1 0xFF) (fun t => (t.getV 0, t.getV VF)) = some (2, 0) := by decide

/-- VF11: both readings. -/
theorem test_shrReg_VF :
    after 0x8F06 (fun s => s.setV VF 3) (fun t => t.getV VF) = some 0 ∧
    after 0x8F06 (fun s => snapshot (s.setV VF 3)) (fun t => t.getV VF) = some 1 := by decide

/-- AR9, AR10. -/
theorem test_subnReg :
    after 0x8017 (fun s => (s.setV 0 5).setV 1 10) (fun t => (t.getV 0, t.getV VF)) = some (5, 1) ∧
    after 0x8017 (fun s => (s.setV 0 10).setV 1 5) (fun t => (t.getV 0, t.getV VF)) = some (0xFB, 0) := by decide

/-- VF9 and VF10: both readings. -/
theorem test_subnReg_VF :
    after 0x8F17 (fun s => (s.setV VF 5).setV 1 0x10) (fun t => t.getV VF) = some 0x0F ∧
    after 0x8F17 (fun s => snapshot ((s.setV VF 5).setV 1 0x10)) (fun t => t.getV VF) = some 0x0B ∧
    after 0x80F7 (fun s => (s.setV 0 1).setV VF 0x10) (fun t => (t.getV 0, t.getV VF)) = some (0, 1) ∧
    after 0x80F7 (fun s => snapshot ((s.setV 0 1).setV VF 0x10)) (fun t => (t.getV 0, t.getV VF)) = some (0x0F, 1) := by
  decide

/-- SH5, SH7: both values of SHL_FLAG_BIT. -/
theorem test_shlReg :
    after 0x800E (fun s => s.setV 0 0x81) (fun t => (t.getV 0, t.getV VF)) = some (2, 1) ∧
    after 0x800E (fun s => bit3 (s.setV 0 0x81)) (fun t => (t.getV 0, t.getV VF)) = some (2, 0) ∧
    after 0x800E (fun s => s.setV 0 8) (fun t => (t.getV 0, t.getV VF)) = some (0x10, 0) ∧
    after 0x800E (fun s => bit3 (s.setV 0 8)) (fun t => (t.getV 0, t.getV VF)) = some (0x10, 1) := by decide

/-- VF12, VF13: both readings. -/
theorem test_shlReg_VF :
    after 0x8F0E (fun s => s.setV VF 0x80) (fun t => t.getV VF) = some 2 ∧
    after 0x8F0E (fun s => snapshot (s.setV VF 0x80)) (fun t => t.getV VF) = some 0 ∧
    after 0x8F0E (fun s => s.setV VF 0x81) (fun t => t.getV VF) = some 2 ∧
    after 0x8F0E (fun s => snapshot (s.setV VF 0x81)) (fun t => t.getV VF) = some 2 := by decide

/-- RN2: masked to nothing, whatever the draw. -/
theorem test_rnd_zero_mask : after 0xC300 id (fun t => t.getV 3) = some 0 := by
  show some ((Config.randomDraw 0 &&& 0x00#8) : Byte) = some 0
  simp

/-! ## Index register and memory -/

/-- IM1. -/
theorem test_ldI : after 0xA123 id State.i = some 0x0123 := by decide

/-- IM2, IM3: no flag, modulo 65536. -/
theorem test_addIVx :
    after 0xF01E (fun s => (s.setI 0x0FFF).setV 0 1) (fun t => (t.i, t.getV VF)) = some (0x1000, 0) ∧
    after 0xF01E (fun s => (s.setI 0xFFFF).setV 0 2) (fun t => (t.i, t.getV VF)) = some (1, 0) := by decide

/-- IM6, IM7: not masked. -/
theorem test_ldFVx : after 0xF029 (fun s => s.setV 0 0x0F) State.i = some 0x009B ∧
    after 0xF029 (fun s => s.setV 0 0xFF) State.i = some 0x054B := by decide

/-- IM8. -/
theorem test_ldBVx : after 0xF033 (fun s => (s.setI 0x300).setV 0 156) (fun t => (bytesAt t 0x300 3, t.i)) =
    some ([1, 5, 6], 0x300) := by decide

/-- IM11: the digits wrap to address 0. -/
theorem test_ldBVx_wraps : after 0xF033 (fun s => (s.setI 0x0FFF).setV 0 123) (fun t => bytesAt t 0x0FFF 3) =
    some [1, 2, 3] := by decide

/-- IM12. -/
theorem test_ldMemVx :
    after 0xF255 (fun s => ((((s.setI 0x300).setV 0 0x11).setV 1 0x22).setV 2 0x33).writeMem 0x303 0x44)
      (fun t => (bytesAt t 0x300 4, t.i)) = some ([0x11, 0x22, 0x33, 0x44], 0x300) := by decide

/-- IM14: the registers wrap to address 0. -/
theorem test_ldMemVx_wraps :
    after 0xF155 (fun s => ((s.setI 0x0FFF).setV 0 0xAA).setV 1 0xBB) (fun t => (t.readMem 0xFFF, t.readMem 0)) =
      some (0xAA, 0xBB) := by decide

/-- IM16: glyph 0 of the font, V5 kept. -/
theorem test_ldVxMem :
    after 0xF465 (fun s => (s.setI 0x050).setV 5 0x77)
      (fun t => ([t.getV 0, t.getV 1, t.getV 2, t.getV 3, t.getV 4, t.getV 5], t.i)) =
      some ([0xF0, 0x90, 0x90, 0x90, 0xF0, 0x77], 0x050) := by decide

/-- IM18: VF is loaded as an ordinary register. -/
theorem test_ldVxMem_VF :
    after 0xFF65 (fun s => (s.setI 0x400).writeMem 0x40F 0xFF) (fun t => t.getV VF) = some 0xFF := by decide

/-! ## Display -/

/-- DR7 and DR9, DR8: a clear of a clear display leaves should_redraw as the Cycle cleared it. -/
theorem test_cls :
    after 0x05E0 (fun s => s.setPixel 3 4 true) (fun t => (t.pixel 3 4, t.shouldRedraw)) = some (false, true) := by
  decide +kernel

theorem test_cls_of_clear : after 0x00E0 (fun s => s.setRedraw true) State.shouldRedraw = some false := by
  decide +kernel

/-- DR4: positions wrap on both axes. -/
theorem test_drw_wraps :
    after 0xD011 (fun s => ((s.setI 0x050).setV 0 200).setV 1 40)
      (fun t => (setAmong t [(7, 8), (8, 8), (11, 8), (12, 8), (63, 8), (8, 7), (8, 9)], t.getV VF, t.shouldRedraw)) =
      some ([(8, 8), (11, 8)], 0, true) := by decide +kernel

/-- DR2 on one row: a second draw of the same bit clears it and sets VF. -/
theorem test_drw_collides :
    after 0xD011 (fun s => (s.setI 0x082).setPixel 0 0 true)
      (fun t => (setAmong t [(0, 0), (1, 0), (3, 0), (4, 0)], t.getV VF, t.shouldRedraw)) =
      some ([(1, 0), (3, 0)], 1, true) := by decide +kernel

/-- DR5, both readings: the column is the live flag, or what VF held. -/
theorem test_drw_VF :
    after 0xDF11 (fun s => ((s.setI 0x300).setV VF 5).writeMem 0x300 0x80)
      (fun t => (setAmong t [(0, 0), (1, 0), (5, 0)], t.getV VF)) = some ([(0, 0)], 0) ∧
    after 0xDF11 (fun s => snapshot (((s.setI 0x300).setV VF 5).writeMem 0x300 0x80))
      (fun t => (setAmong t [(0, 0), (1, 0), (5, 0)], t.getV VF)) = some ([(5, 0)], 0) := by decide +kernel

/-! ## Keys and timers -/

/-- KT1, KT2: the register is not masked. -/
theorem test_skp : after 0xE09E (fun s => (s.setKey 5 true).setV 0 0x05) State.pc = some 0x204 ∧
    after 0xE09E (fun s => (s.setKey 5 true).setV 0 0x15) State.pc = some 0x202 := by decide

/-- KT3, KT4. -/
theorem test_sknp : after 0xE0A1 (fun s => s.setV 0 5) State.pc = some 0x204 ∧
    after 0xE0A1 (fun s => (s.setKey 5 true).setV 0 0x05) State.pc = some 0x202 := by decide

/-- KT5. -/
theorem test_wait_for_key : after 0xF30A (fun s => s.setV 3 0x77) (fun t => (t.pc, t.getV 3)) = some (0x200, 0x77) := by
  decide

/-- With one key held pick_key has no choice (R90). -/
theorem test_key_taken : after 0xF30A (fun s => s.setKey 9 true) (fun t => (t.pc, t.getV 3)) = some (0x202, 9) := by
  show some ((0x202 : Word), keyByte (pickKey (State.reset.setKey 9 true).keys)) = _
  have h : heldKeys (State.reset.setKey 9 true).keys = [9] := by decide
  have hk : pickKey (State.reset.setKey 9 true).keys = 9 := by
    unfold pickKey
    rw [h]
    simp only [List.length_singleton, Nat.mod_one]
    rfl
  rw [hk]
  rfl

/-- KT7. -/
theorem test_ldVxDt : after 0xF107 (fun s => s.setDt 0x3C) (fun t => t.getV 1) = some 0x3C := by decide

/-- KT8. -/
theorem test_ldDtVx : after 0xF015 (fun s => s.setV 0 0x10) State.dt = some 0x10 := by decide

/-- KT9. -/
theorem test_ldStVx : after 0xF018 (fun s => s.setV 0 2) (fun t => (t.st, t.shouldBeep)) = some (2, true) := by decide

/-- KT11, KT12, S6: a tick counts down while the timers run, and never below 0. -/
theorem test_tick :
    afterEvent .tick ((State.reset.setDt 5).setTimerRunning true) (fun t => (t.dt, t.st)) = some (4, 0) ∧
    afterEvent .tick (State.reset.setDt 5) State.dt = some 5 ∧
    afterEvent .tick (State.reset.setTimerRunning true) State.dt = some 0 := by decide

/-- KT14: a tick counts down while a fault stands (D27). -/
theorem test_tick_faulted :
    afterEvent .tick (((State.reset.setDt 3).setTimerRunning true).raise .stackUnderflow 0x00EE) State.dt = some 2 := by
  decide

/-- KT13. -/
theorem test_stopTimer : afterEvent .stopTimer (State.reset.setTimerRunning true) State.timerRunning = some false := by
  decide

/-- R27: the host sees timer_running, should_redraw and fault, before and after StartTimer. -/
theorem test_outputs_status :
    afterEvent .startTimer (State.reset.setRedraw true)
      (fun t => (t.outputs.timerRunning, t.outputs.shouldRedraw, t.outputs.faultStatus)) = some (true, true, none) ∧
    State.reset.outputs.timerRunning = false := by decide

/-- KT15, KT16. -/
theorem test_keys :
    afterEvent (.keyDown 7) State.reset (fun t => heldKeys t.keys) = some [7] ∧
    afterEvent (.keyUp 7) (State.reset.setKey 7 true) (fun t => heldKeys t.keys) = some [] := by decide

/-- RS1: what LoadProgram sets and keeps. -/
theorem test_loadProgram :
    afterEvent (.loadProgram [0x60, 0x01])
      ((((State.reset.setV 5 0x12).setKey 4 true).writeMem 0x030 0x77).writeMem 0x204 0x99)
      (fun t => (bytesAt t 0x200 5, t.readMem 0x030, (t.getV 5, t.pc), heldKeys t.keys)) =
      some ([0x60, 0x01, 0, 0, 0], 0x77, (0, 0x200), [4]) := by decide

/-- RS4: the font at its base, zeros around it. -/
theorem test_reset_memory :
    bytesAt State.reset 0x04F 6 = [0, 0xF0, 0x90, 0x90, 0x90, 0xF0] ∧
    bytesAt State.reset 0x09B 6 = [0xF0, 0x80, 0xF0, 0x80, 0x80, 0] := by decide

/-! ## Disassembler -/

/-- S9 (DS1), DS13, DS14. -/
theorem test_disassemble :
    disassemble [0xA2, 0x02, 0x05, 0xE0, 0xF0, 0x0A, 0xF1, 0x29] =
      [⟨0, "LD", ["I", "$202"]⟩, ⟨2, "CLS", []⟩, ⟨4, "LD", ["V0", "K"]⟩, ⟨6, "LD", ["F", "V1"]⟩] := rfl

/-- DS5, DS6, DS10: an odd byte, an undefined word, the ignored operand of SHR. -/
theorem test_disassemble_edges :
    disassemble [0x60, 0x05, 0xFF] = [⟨0, "LD", ["V0", "$05"]⟩] ∧
    disassemble [0xE0, 0x00] = [⟨0, "UNKNOWN", ["$E000"]⟩] ∧
    disassemble [0x8A, 0xB6] = [⟨0, "SHR", ["VA", "VB"]⟩] := ⟨rfl, rfl, rfl⟩

/-! ## Witnesses: states and operands that meet the hypotheses of the statements, one for each clause -/

/-- A fault recorded as a RET at power-on records it. -/
def faulted : State := State.reset.raise .stackUnderflow 0x00EE

/-- Sixteen frames held. -/
def full (s : State) : State := { s with stack := List.replicate 16 0x206 }

/-- `step` answers a next state that meets `p`. -/
def stepMeets (s : State) (p : State → Bool) : Bool :=
  match step s with
  | .next t => p t
  | .fault _ => false
  | .refused _ => false

/-- `exec` answers a next state that meets `p`. -/
def execMeets (i : Instr) (s : State) (p : State → Bool) : Bool :=
  match exec i s with
  | .next t => p t
  | .fault _ => false
  | .refused _ => false

/-- Words of each row of the opcode map, the first and the last of one row of each mask (`Encodes`, `Texts`). -/
theorem test_witness_encodes :
    (0x00E0#16 &&& 0xF0FF = 0x00E0 ∧ 0x0FE0#16 &&& 0xF0FF = 0x00E0 ∧ 0x00EE#16 &&& 0xF0FF = 0x00EE) ∧
    (0x1000#16 &&& 0xF000 = 0x1000 ∧ 0x1FFF#16 &&& 0xF000 = 0x1000 ∧ 0x2FFF#16 &&& 0xF000 = 0x2000 ∧
      0x3FFF#16 &&& 0xF000 = 0x3000 ∧ 0x4FFF#16 &&& 0xF000 = 0x4000 ∧ 0x5FFF#16 &&& 0xF000 = 0x5000 ∧
      0x6FFF#16 &&& 0xF000 = 0x6000 ∧ 0x7FFF#16 &&& 0xF000 = 0x7000 ∧ 0x9FFF#16 &&& 0xF000 = 0x9000 ∧
      0xAFFF#16 &&& 0xF000 = 0xA000 ∧ 0xBFFF#16 &&& 0xF000 = 0xB000 ∧ 0xCFFF#16 &&& 0xF000 = 0xC000 ∧
      0xDFFF#16 &&& 0xF000 = 0xD000) ∧
    (0x8000#16 &&& 0xF00F = 0x8000 ∧ 0x8FF0#16 &&& 0xF00F = 0x8000 ∧ 0x8FF1#16 &&& 0xF00F = 0x8001 ∧
      0x8FF2#16 &&& 0xF00F = 0x8002 ∧ 0x8FF3#16 &&& 0xF00F = 0x8003 ∧ 0x8FF4#16 &&& 0xF00F = 0x8004 ∧
      0x8FF5#16 &&& 0xF00F = 0x8005 ∧ 0x8FF6#16 &&& 0xF00F = 0x8006 ∧ 0x8FF7#16 &&& 0xF00F = 0x8007 ∧
      0x8FFE#16 &&& 0xF00F = 0x800E) ∧
    (0xEF9E#16 &&& 0xF0FF = 0xE09E ∧ 0xEFA1#16 &&& 0xF0FF = 0xE0A1 ∧ 0xFF07#16 &&& 0xF0FF = 0xF007 ∧
      0xFF0A#16 &&& 0xF0FF = 0xF00A ∧ 0xFF15#16 &&& 0xF0FF = 0xF015 ∧ 0xFF18#16 &&& 0xF0FF = 0xF018 ∧
      0xFF1E#16 &&& 0xF0FF = 0xF01E ∧ 0xFF29#16 &&& 0xF0FF = 0xF029 ∧ 0xFF33#16 &&& 0xF0FF = 0xF033 ∧
      0xFF55#16 &&& 0xF0FF = 0xF055 ∧ 0xFF65#16 &&& 0xF0FF = 0xF065) := by decide

/-- `EncodeInvertsDecode`, `DecodeFollowsOpcodeMap`: a word that decodes, and one that does not. -/
theorem test_witness_decodes :
    decode 0xFF65 = .instr (.ldVxMem 0xF) ∧ (∃ row ∈ opcodeMap, matchesRow 0xFF65 row = true) ∧
    ∀ row ∈ opcodeMap, matchesRow 0xFF66 row = false :=
  ⟨by decide, List.any_eq_true.1 (by decide), fun row h => by
    simpa using List.all_eq_true.1 (show opcodeMap.all (fun r => !matchesRow 0xFF66 r) = true by decide) row h⟩

/-- `UndefinedWordsByGroup`: words on both sides of each clause. -/
theorem test_witness_undefined_groups :
    decode 0x00DF = .undefined .group0 ∧ decode 0x0FEF = .undefined .group0 ∧ decode 0x8FFF = .undefined .group8 ∧
    decode 0x8FFD = .undefined .group8 ∧ decode 0xE09D = .undefined .groupE ∧ decode 0xEFA2 = .undefined .groupE ∧
    decode 0xF006 = .undefined .groupF ∧ decode 0xFF66 = .undefined .groupF := by decide

/-- `StepRunsDecodedInstruction`, `CycleRunsDecodedInstruction`: no transaction waiting and a Cycle waiting before another one; an instruction and an undefined word,
fetched across the top of memory too. -/
theorem test_witness_step_runs :
    (start 0xD125 id).inputs = [] ∧ (start 0xD125 id).fault = none ∧
    decode ((start 0xD125 id).readMem (start 0xD125 id).pc.toNat ++ (start 0xD125 id).readMem ((start 0xD125 id).pc.toNat + 1)) =
      .instr (.drw 1 2 5) ∧
    { start 0x8008 id with inputs := [.cycle, .tick] }.inputs = .cycle :: [.tick] ∧
    decode ((start 0x8008 (fun s => s.setPc 0xFFFF)).readMem 0xFFFF ++
      (start 0x8008 (fun s => s.setPc 0xFFFF)).readMem 0x10000) = .undefined .group8 := by decide

/-- `UndefinedWordIsNoOp`. -/
theorem test_witness_noop :
    (start 0xFFFF id).inputs = [] ∧ (start 0xFFFF id).fault = none ∧
    ∀ row ∈ opcodeMap, matchesRow ((start 0xFFFF id).readMem (start 0xFFFF id).pc.toNat ++
      (start 0xFFFF id).readMem ((start 0xFFFF id).pc.toNat + 1)) row = false := by
  have hw : (start 0xFFFF id).readMem (start 0xFFFF id).pc.toNat ++
      (start 0xFFFF id).readMem ((start 0xFFFF id).pc.toNat + 1) = 0xFFFF#16 := by decide
  refine ⟨rfl, rfl, fun row h => ?_⟩
  rw [hw]
  simpa using List.all_eq_true.1 (show opcodeMap.all (fun r => !matchesRow 0xFFFF r) = true by decide) row h

/-- `FaultedCycleChangesNothing`, `CycleRunsDecodedInstruction`. -/
theorem test_witness_faulted : faulted.fault ≠ none ∧ faulted.inputs = [] := by decide

/-- `MemoryAccessWraps`: an address just above the written one, across the top of memory. -/
theorem test_witness_wrap : 0x1000 % 4096 ≠ 0x0FFF % 4096 := by decide

/-- `StoredCodeIsFetched`: the first pair and the last pair of registers, the latter across the top of memory. -/
theorem test_witness_stored_code :
    ((1 : Reg).val = (0 : Reg).val + 1 ∧ (1 : Reg) ≤ 1 ∧ (15 : Reg).val = (14 : Reg).val + 1 ∧ (15 : Reg) ≤ 15) ∧
    execMeets (.ldMemVx 1) (State.reset.setI 0x200)
      (fun t => t.pc.toNat % 4096 == (State.reset.i.toNat + 0x200 + 0) % 4096) = true ∧
    execMeets (.ldMemVx 15) ((State.reset.setI 0xFFF1).setPc 0x0FFF)
      (fun t => t.pc.toNat % 4096 == (0xFFF1 + 14) % 4096) = true := by decide

/-- `SkipLandsTwoWordsOn`: a taken skip of each of the six kinds. -/
theorem test_witness_skips :
    (start 0x3000 id).takesCycle ∧ (start 0x3000 id).fault = none ∧
    (decode (start 0x3000 id).fetchWord = .instr (.seImm 0 0) ∧ State.reset.getV 0 = 0) ∧
    (decode (start 0x4001 id).fetchWord = .instr (.sneImm 0 1) ∧ State.reset.getV 0 ≠ 1) ∧
    (decode (start 0x5125 id).fetchWord = .instr (.seReg 1 2 5) ∧ (start 0x5125 id).getV 1 = (start 0x5125 id).getV 2) ∧
    (decode (start 0x9120 (fun s => s.setV 1 7)).fetchWord = .instr (.sneReg 1 2 0) ∧
      (start 0x9120 (fun s => s.setV 1 7)).getV 1 ≠ (start 0x9120 (fun s => s.setV 1 7)).getV 2) ∧
    (decode (start 0xE09E (fun s => (s.setKey 15 true).setV 0 15)).fetchWord = .instr (.skp 0) ∧
      ∃ k : Key, (start 0xE09E (fun s => (s.setKey 15 true).setV 0 15)).held k = true ∧
        ((start 0xE09E (fun s => (s.setKey 15 true).setV 0 15)).getV 0).toNat = k.val) ∧
    (decode (start 0xE0A1 (fun s => (s.setKey 0 true).setV 0 16)).fetchWord = .instr (.sknp 0) ∧
      ¬ ∃ k : Key, (start 0xE0A1 (fun s => (s.setKey 0 true).setV 0 16)).held k = true ∧
        ((start 0xE0A1 (fun s => (s.setKey 0 true).setV 0 16)).getV 0).toNat = k.val) := by
  refine ⟨.inl rfl, ?_⟩
  decide

/-- `SelfJumpIsFixedPoint`. -/
theorem test_witness_self_jump :
    (start 0x1200 id).inputs = [] ∧ (start 0x1200 id).fault = none ∧
    decode (start 0x1200 id).fetchWord = .instr (.jp 0x200) ∧
    (start 0x1200 id).pc = (0x200#12).setWidth 16 := by decide

/-- `CallPushesReturnAddress`, `CallThenReturnResumes`: 15 frames and 16 frames, the fetch address 0xFFFE. -/
theorem test_witness_call :
    { State.reset with stack := List.replicate 15 0x206 }.depth < 16 ∧ (full State.reset).depth = 16 ∧
    (full (State.reset.setPc 0)).depth = 16 ∧ (full (State.reset.setPc 0)).pc = 0xFFFE + 2 := by decide

/-- `ReturnPopsAddress`: one frame and none. -/
theorem test_witness_ret :
    { State.reset with stack := [0x206] }.stack = [] ++ [0x206] ∧ (full State.reset).stack = List.replicate 15 0x206 ++ [0x206] ∧
    State.reset.depth = 0 ∧ State.reset.pc = 0x1FE + 2 := by decide

/-- `StackFaultEntryIsPrecise`: both causes. -/
theorem test_witness_stack_faults :
    ((start 0x2500 full).inputs = [] ∧ (start 0x2500 full).fault = none ∧
      decode (start 0x2500 full).fetchWord = .instr (.call 0x500) ∧ (start 0x2500 full).depth = 16) ∧
    ((start 0x0FEE id).inputs = [] ∧ (start 0x0FEE id).fault = none ∧
      decode (start 0x0FEE id).fetchWord = .instr (.ret 0xF) ∧ (start 0x0FEE id).depth = 0) := by decide

/-- `VfReadUnobservable`, `DrawXorsSprite`, `DrawTwiceRestores`: registers that are not VF, the reading snapshot with VF as both
coordinates, and a pixel on and a pixel off the sprite. -/
theorem test_witness_not_VF : (14 : Reg) ≠ VF ∧ (0 : Reg) ≠ VF ∧ (snapshot State.reset).params.vfRead = .snapshot := by
  decide

theorem test_witness_sprite_bit : (State.reset.setI 0x050).spriteFlips 63 31 2 0 0 ↔ False := by
  constructor
  · rintro ⟨row, k, hr, hk, hc, hrow, hb⟩
    have h1 : row = 1 := by simp at hrow; omega
    have h2 : k = 1 := by simp at hc; omega
    subst h1 h2
    revert hb; decide
  · exact False.elim

theorem test_witness_sprite_bit_wraps : (State.reset.setI 0x050).spriteFlips 63 31 1 2 31 :=
  ⟨0, 3, by decide, by decide, by decide, by decide, by decide⟩

/-- `ShiftsSetShiftedBit`: the destination is VF, or not; both values of SHL_FLAG_BIT. -/
theorem test_witness_shift : (15 : Reg) = VF ∧ (14 : Reg) ≠ VF ∧ State.reset.params.shlFlagBit = .bit7 ∧
    (bit3 State.reset).params.shlFlagBit = .bit3 := by decide

/-- `ClearDisplayClears`: a pixel set, and none. -/
theorem test_witness_cls :
    (∃ c r, (State.reset.setPixel 63 31 true).pixel c r = true) ∧ State.reset.pixel 63 31 = false :=
  ⟨⟨63, 31, by decide⟩, by decide⟩

/-- `SkipsOnKeys`: the last key code held; a value above it. -/
theorem test_witness_keys :
    (∃ k : Key, (((State.reset.setKey 15 true).setV 0 15).getV 0).toNat = k.val ∧
      ((State.reset.setKey 15 true).setV 0 15).held k = true) ∧
    ¬ ∃ k : Key, (((State.reset.setKey 0 true).setV 0 16).getV 0).toNat = k.val ∧
      ((State.reset.setKey 0 true).setV 0 16).held k = true := by decide

/-- `WaitForKey`: no key held, and one. -/
theorem test_witness_wait :
    (∀ k, (start 0xF30A id).held k = false) ∧ (start 0xF30A id).pc = 0x1FE + 2 ∧ (start 0xF30A id).inputs = [] ∧
    (start 0xF30A id).fault = none ∧ decode (start 0xF30A id).fetchWord = .instr (.ldVxK 3) ∧
    ∃ k, (State.reset.setKey 15 true).held k = true := by decide

/-- `TickCountsDown`: running and stopped. -/
theorem test_witness_tick :
    (State.reset.setTimerRunning true).timerRunning = true ∧ State.reset.timerRunning = false := by decide

/-- `PowerOnValues`: the addresses at the edges of the font region and of memory. -/
theorem test_witness_font_edges :
    (0x050 ≤ 0x050 ∧ 0x050 ≤ 0x09F ∧ 0x09F ≤ 0x09F) ∧ (0x04F < 0x1000 ∧ 0x04F < 0x050) ∧
    (0x0A0 < 0x1000 ∧ 0x09F < 0x0A0) ∧ 0xFFF < 0x1000 := by decide

/-- `LoadProgramResets`: the last byte of a program too long by one, the first byte past a program of one byte, and the last address
of the kept region. -/
theorem test_witness_load :
    0xDFF < min (List.replicate 0xE01 (1 : Byte)).length 0xE00 ∧
    (min [(1 : Byte)].length 0xE00 ≤ 1 ∧ 1 < 0xE00) ∧ 0x1FF < 0x200 := by
  rw [List.length_replicate]; decide

/-- `TransactionsTakenInOrder`: none waiting, and one waiting before another. -/
theorem test_witness_schedule :
    State.reset.inputs = [] ∧ { State.reset with inputs := [.tick, .cycle] }.inputs = .tick :: [.cycle] := by decide

/-- `StoreThenLoadRestores`: a state with the I and the memory of the stored one and other registers. -/
theorem test_witness_store_load (t : State) :
    (t.setV 0 0x55).i = t.i ∧ ∀ a, (t.setV 0 0x55).readMem a = t.readMem a := ⟨rfl, fun _ => rfl⟩

/-- `EachPartHasItsWriters`, `StepKeepsParameters`: a step that changes each part, by a writer that the clause names. -/
theorem test_witness_writers :
    stepMeets { State.reset with inputs := [.keyDown 3] } (fun t => t.keys != State.reset.keys) = true ∧
    stepMeets { State.reset with inputs := [.startTimer] } (fun t => t.timerRunning) = true ∧
    stepMeets (start 0xF015 (fun s => s.setV 0 1)) (fun t => t.dt != 0) = true ∧
    stepMeets (start 0xF018 (fun s => s.setV 0 1)) (fun t => t.st != 0) = true ∧
    stepMeets (start 0xA001 id) (fun t => t.i != 0) = true ∧
    stepMeets (start 0x2400 id) (fun t => t.stack != []) = true ∧
    stepMeets (start 0xF055 (fun s => s.setV 0 1)) (fun t => t.mem != (start 0xF055 id).mem) = true ∧
    stepMeets (start 0x00EE id) (fun t => t.fault != none) = true := by decide

theorem test_witness_display_writer :
    stepMeets (start 0xD011 (fun s => s.setI 0x050)) (fun t => t.pixel 0 0 != State.reset.pixel 0 0) = true := by
  decide +kernel

/-- `StepKeepsInvariant`: power-on, and a state with a recorded fault. -/
theorem test_witness_invariant : State.reset.Inv ∧ stepMeets State.reset (fun _ => true) = true :=
  ⟨⟨rfl, by decide, fun _ h => nomatch h⟩, by decide⟩

theorem test_witness_invariant_faulted : faulted.Inv ∧ stepMeets faulted (fun _ => true) = true := by
  refine ⟨⟨rfl, by decide, fun f h => ?_⟩, by decide⟩
  cases h
  exact ⟨rfl, rfl, rfl, 0, by decide⟩

/-- `SoundStateUnobservable`: an instruction that reads neither part, and the one that writes ST. -/
theorem test_witness_sound :
    execMeets (.ldVxDt 0) State.reset (fun _ => true) = true ∧
    execMeets (.ldStVx 0) State.reset (fun _ => true) = true := by decide

/-- `DisassembleWalksWords`: the last whole word of a buffer with an odd last byte. -/
theorem test_witness_disassemble : 1 < [(0x60 : Byte), 5, 0xA2, 2, 0xFF].length / 2 := by decide

end Sys2Proof.Tests
end

/-! PROOFS. The statement of 20_memory.md about single accesses (R34). -/

namespace Sys2Proof.Machine

/-! ## An address enters an access only modulo 4096 -/

theorem State.readMem_mod (s : State) (a : Nat) : s.readMem (a % memSize) = s.readMem a := by
  simp only [State.readMem, Memory.read, Nat.mod_mod]

theorem State.writeMem_mod (s : State) (a : Nat) (b : Byte) : s.writeMem (a % memSize) b = s.writeMem a b := by
  simp only [State.writeMem, Memory.write, Nat.mod_mod]

/-! ## The two cases of a read after a write -/

@[simp] theorem State.readMem_writeMem_same (s : State) (a : Nat) (b : Byte) : (s.writeMem a b).readMem a = b := by
  rw [State.readMem_writeMem, if_pos rfl]

theorem State.readMem_writeMem_of_mod_ne (s : State) {a k : Nat} (b : Byte) (h : k % memSize ≠ a % memSize) :
    (s.writeMem a b).readMem k = s.readMem k := by
  rw [State.readMem_writeMem, if_neg h]

/-- Settles O13: an access depends on its address modulo 4096 only, and a read after a write is of the written cell or of another. -/
theorem memoryAccessWraps : Obligations.MemoryAccessWraps := by
  intro s a b
  exact ⟨(s.readMem_mod a).symm, (s.writeMem_mod a b).symm, s.readMem_writeMem_same a b,
    fun _ hk => s.readMem_writeMem_of_mod_ne b hk⟩

end Sys2Proof.Machine

/-! PROOFS. The statement of 30_encoding.md about the six fields of a word (R43). -/

namespace Sys2Proof

/-! ## Each field is a quotient and a remainder of the word -/

/-- A bit slice of any width: drop the `start` bits below it, keep `len` bits. -/
theorem toNat_extractLsb'_eq_div_mod {width : Nat} (v : BitVec width) (start len : Nat) :
    (v.extractLsb' start len).toNat = v.toNat / 2 ^ start % 2 ^ len := by
  rw [BitVec.extractLsb'_toNat, Nat.shiftRight_eq_div_pow]

theorem toNat_extractLsb'_zero {width : Nat} (v : BitVec width) (len : Nat) :
    (v.extractLsb' 0 len).toNat = v.toNat % 2 ^ len := by
  rw [toNat_extractLsb'_eq_div_mod, pow_zero, Nat.div_one]

@[simp] theorem fieldsOf_opcode_toNat (w : Word) : (fieldsOf w).opcode.toNat = w.toNat / 4096 := by
  have hslice : (fieldsOf w).opcode.toNat = w.toNat / 4096 % 16 := toNat_extractLsb'_eq_div_mod w 12 4
  have hw : w.toNat < 65536 := w.isLt
  omega

@[simp] theorem fieldsOf_x_toNat (w : Word) : (fieldsOf w).x.toNat = w.toNat / 256 % 16 := toNat_extractLsb'_eq_div_mod w 8 4

@[simp] theorem fieldsOf_y_toNat (w : Word) : (fieldsOf w).y.toNat = w.toNat / 16 % 16 := toNat_extractLsb'_eq_div_mod w 4 4

@[simp] theorem fieldsOf_nnn_toNat (w : Word) : (fieldsOf w).nnn.toNat = w.toNat % 4096 := toNat_extractLsb'_zero w 12

@[simp] theorem fieldsOf_nn_toNat (w : Word) : (fieldsOf w).nn.toNat = w.toNat % 256 := toNat_extractLsb'_zero w 8

@[simp] theorem fieldsOf_n_toNat (w : Word) : (fieldsOf w).n.toNat = w.toNat % 16 := toNat_extractLsb'_zero w 4

/-! ## The fields overlap: adjacent slices join -/

theorem fieldsOf_nnn_eq_append (w : Word) : (fieldsOf w).nnn = (fieldsOf w).x ++ (fieldsOf w).nn :=
  (BitVec.extractLsb'_append_extractLsb'_eq_extractLsb' (by rfl : 8 = 0 + 8)).symm

theorem fieldsOf_nn_eq_append (w : Word) : (fieldsOf w).nn = (fieldsOf w).y ++ (fieldsOf w).n :=
  (BitVec.extractLsb'_append_extractLsb'_eq_extractLsb' (by rfl : 4 = 0 + 4)).symm

theorem fieldsOf_wellFormed (w : Word) : (fieldsOf w).wellFormed = true := by
  rw [Fields.wellFormed, Bool.and_eq_true, beq_iff_eq, beq_iff_eq]
  exact ⟨fieldsOf_nnn_eq_append w, fieldsOf_nn_eq_append w⟩

/-- Settles O3: the six slices one by one, and the two overlaps. -/
theorem fieldsAreTheBitSlices : Obligations.FieldsAreTheBitSlices := fun w =>
  ⟨fieldsOf_opcode_toNat w, fieldsOf_x_toNat w, fieldsOf_y_toNat w, fieldsOf_nnn_toNat w, fieldsOf_nn_toNat w,
    fieldsOf_n_toNat w, fieldsOf_wellFormed w⟩

end Sys2Proof

/-! PROOFS. A word that decodes to an instruction matches that instruction's row of the opcode map (R48), so a word that matches no row
is undefined. -/

namespace Sys2Proof

/-! ## Every instruction has a row -/

theorem row_mem_opcodeMap (i : Instr) : (rowMask i, rowMatch i) ∈ opcodeMap := by
  cases i <;> exact List.mem_of_elem_eq_true rfl

/-! ## The three masks of the rows, for a word whose opcode and subcode are known -/

theorem mask_F000_of_fields {w : Word} {o : Nibble} (ho : (fieldsOf w).opcode = o) : w &&& 0xF000 = formatXNN o 0 0 := by
  rw [mask_F000, ho]

theorem mask_F0FF_of_fields {w : Word} {o : Nibble} {nn : Byte} (ho : (fieldsOf w).opcode = o)
    (hnn : (fieldsOf w).nn = nn) : w &&& 0xF0FF = formatXNN o 0 nn := by
  rw [mask_F0FF, ho, hnn]

theorem mask_F00F_of_fields {w : Word} {o n : Nibble} (ho : (fieldsOf w).opcode = o) (hn : (fieldsOf w).n = n) :
    w &&& 0xF00F = formatXYN o 0 0 n := by
  rw [mask_F00F, ho, hn]

/-! ## Each group of the decoder keeps to the rows of its opcode -/

theorem and_rowMask_of_decodeGroup0 {w : Word} {i : Instr} (ho : (fieldsOf w).opcode = 0x0#4)
    (h : decodeGroup0 (fieldsOf w) = .instr i) : w &&& rowMask i = rowMatch i := by
  unfold decodeGroup0 at h
  split_ifs at h <;> cases h <;> exact mask_F0FF_of_fields ho ‹_›

theorem and_rowMask_of_decodeGroup8 {w : Word} {i : Instr} (ho : (fieldsOf w).opcode = 0x8#4)
    (h : decodeGroup8 (fieldsOf w) = .instr i) : w &&& rowMask i = rowMatch i := by
  unfold decodeGroup8 at h
  split_ifs at h <;> cases h <;> exact mask_F00F_of_fields ho ‹_›

theorem and_rowMask_of_decodeGroupE {w : Word} {i : Instr} (ho : (fieldsOf w).opcode = 0xE#4)
    (h : decodeGroupE (fieldsOf w) = .instr i) : w &&& rowMask i = rowMatch i := by
  unfold decodeGroupE at h
  split_ifs at h <;> cases h <;> exact mask_F0FF_of_fields ho ‹_›

theorem and_rowMask_of_decodeGroupF {w : Word} {i : Instr} (ho : (fieldsOf w).opcode = 0xF#4)
    (h : decodeGroupF (fieldsOf w) = .instr i) : w &&& rowMask i = rowMatch i := by
  unfold decodeGroupF at h
  split_ifs at h <;> cases h <;> exact mask_F0FF_of_fields ho ‹_›

/-! ## The decoder as a whole -/

/-- Outside the four groups the opcode alone decides the instruction, and its row has the mask 0xF000; the opcode left over is 0xF. -/
theorem and_rowMask_of_decode {w : Word} {i : Instr} (h : decode w = .instr i) : w &&& rowMask i = rowMatch i := by
  unfold decode decodeFields at h
  obtain ⟨ho, h⟩ | ⟨_, h⟩ := ite_eq_iff.1 h
  · exact and_rowMask_of_decodeGroup0 ho h
  iterate 7
    obtain ⟨ho, h⟩ | ⟨_, h⟩ := ite_eq_iff.1 h
    · cases h; exact mask_F000_of_fields ho
  obtain ⟨ho, h⟩ | ⟨_, h⟩ := ite_eq_iff.1 h
  · exact and_rowMask_of_decodeGroup8 ho h
  iterate 5
    obtain ⟨ho, h⟩ | ⟨_, h⟩ := ite_eq_iff.1 h
    · cases h; exact mask_F000_of_fields ho
  obtain ⟨ho, h⟩ | ⟨_, h⟩ := ite_eq_iff.1 h
  · exact and_rowMask_of_decodeGroupE ho h
  · exact and_rowMask_of_decodeGroupF (by bv_omega) h

theorem decode_undefined_of_no_row {w : Word} (hno : ∀ row ∈ opcodeMap, matchesRow w row = false) :
    ∃ g, decode w = .undefined g := by
  cases hd : decode w with
  | undefined g => exact ⟨g, rfl⟩
  | instr i => exact absurd (and_rowMask_of_decode hd) (beq_eq_false_iff_ne.1 (hno _ (row_mem_opcodeMap i)))

end Sys2Proof

/-! PROOFS. The statements of 40_cycle.md about the Cycle transaction. -/

namespace Sys2Proof.Machine

/-! ## The three answers of a Cycle (R50, R52, R55) -/

theorem State.cycle_of_fault {s : State} (hf : s.fault ≠ none) : s.cycle = .next s :=
  if_pos (Option.isSome_iff_ne_none.2 hf)

theorem State.cycle_of_instr {s : State} {i : Instr} (hf : s.fault = none) (hd : decode s.fetchWord = .instr i) :
    s.cycle = exec i s.handlerEntry := by
  simp [State.cycle, hf, hd]

theorem State.cycle_of_undefined {s : State} {g : UndefinedGroup} (hf : s.fault = none)
    (hd : decode s.fetchWord = .undefined g) : s.cycle = .next s.handlerEntry := by
  simp [State.cycle, hf, hd]

/-- Settles O10: the first of the three answers. -/
theorem faultedCycleChangesNothing : Obligations.FaultedCycleChangesNothing := fun _ hf => State.cycle_of_fault hf

/-- Settles O7: the three answers one by one. -/
theorem cycleRunsDecodedInstruction : Obligations.CycleRunsDecodedInstruction := fun _ =>
  ⟨State.cycle_of_fault, fun hf => ⟨fun _ hi => State.cycle_of_instr hf hi, fun _ hg => State.cycle_of_undefined hf hg⟩⟩

/-- Settles O9: a word that matches no row is undefined to the decoder. -/
theorem undefinedWordIsNoOp : Obligations.UndefinedWordIsNoOp := by
  intro s hf hno
  obtain ⟨g, hg⟩ := decode_undefined_of_no_row (w := s.fetchWord) hno
  exact State.cycle_of_undefined hf hg

end Sys2Proof.Machine

/-! PROOFS. The statements of 41_flow.md about control transfer and skips (R58-R65). -/

namespace Sys2Proof

/-! ## The fields that a mask of the opcode map fixes -/

theorem opcode_of_mask_F000 {w : Word} {o : Nibble} (h : w &&& 0xF000 = formatXNN o 0 0) : (fieldsOf w).opcode = o := by
  rw [mask_F000] at h
  rw [← (fieldsOf_formatXNN (fieldsOf w).opcode 0 0).1, h, (fieldsOf_formatXNN o 0 0).1]

theorem opcode_nn_of_mask_F0FF {w : Word} {o : Nibble} {nn : Byte} (h : w &&& 0xF0FF = formatXNN o 0 nn) :
    (fieldsOf w).opcode = o ∧ (fieldsOf w).nn = nn := by
  obtain ⟨hopcode, -, hnn⟩ := fieldsOf_formatXNN (fieldsOf w).opcode 0 (fieldsOf w).nn
  rw [← mask_F0FF, h] at hopcode hnn
  obtain ⟨ho, -, hb⟩ := fieldsOf_formatXNN o 0 nn
  exact ⟨hopcode.symm.trans ho, hnn.symm.trans hb⟩

end Sys2Proof

namespace Sys2Proof.Machine

/-! ## A row of the opcode map from the dispatch of R47 -/

theorem encodes_of_opcode (o : Nibble) {mk : Fields → Instr}
    (h : ∀ f : Fields, f.opcode = o → decodeFields f = .instr (mk f)) : Encodes 0xF000 (formatXNN o 0 0) mk :=
  fun _ hw => h _ (opcode_of_mask_F000 hw)

theorem encodes_of_opcode_nn (o : Nibble) (nn : Byte) {mk : Fields → Instr}
    (h : ∀ f : Fields, f.opcode = o → f.nn = nn → decodeFields f = .instr (mk f)) :
    Encodes 0xF0FF (formatXNN o 0 nn) mk := fun _ hw =>
  have ⟨ho, hn⟩ := opcode_nn_of_mask_F0FF hw
  h _ ho hn

/-! ## Zero-extended operands keep their value (R44) -/

@[simp] theorem zextAddr_toNat (nnn : Addr) : (zextAddr nnn).toNat = nnn.toNat :=
  BitVec.toNat_setWidth_of_le (by decide)

@[simp] theorem zextByte_toNat (b : Byte) : (zextByte b).toNat = b.toNat :=
  BitVec.toNat_setWidth_of_le (by decide)

/-- A 12-bit and an 8-bit operand cannot carry out of 16 bits, so the sum of R61 is exact. -/
theorem zextAddr_add_zextByte_toNat (nnn : Addr) (b : Byte) : (zextAddr nnn + zextByte b).toNat = nnn.toNat + b.toNat := by
  rw [BitVec.toNat_add, zextAddr_toNat, zextByte_toNat]
  omega

/-! ## What an update of `pc`, or of `pc` and the stack, leaves unchanged -/

theorem frame_setPc (s : State) (w : Word) : Frame { pc := true } s (s.setPc w) := by
  constructor <;> simp

theorem frame_setPc_stack (s : State) (frames : List Word) (w : Word) :
    Frame { pc := true, stack := true } s ({ s with stack := frames }.setPc w) := by
  constructor <;> simp [State.getV, State.readMem, State.pixel, State.held]

/-! ## A skip on a comparison of bytes (R53) -/

theorem State.skipIf_beq (s : State) (a b : Byte) :
    s.skipIf (a == b) = s.setPc (if a = b then s.pc + 2 else s.pc) := by
  simp only [State.skipIf_eq, beq_iff_eq]

theorem State.skipIf_bne (s : State) (a b : Byte) :
    s.skipIf (a != b) = s.setPc (if a = b then s.pc else s.pc + 2) := by
  simp only [State.skipIf_eq, bne_iff_ne, ne_eq, ite_not]

/-! ## A fault with the fetch address named (R104) -/

theorem State.raise_of_fetched {s : State} {a : Word} (h : s.pc = a + 2) (cause : Fault) (w : Word) :
    s.raise cause w = { s with pc := a, fault := some { cause := cause, pc := a, word := w } } := by
  have ha : s.fetchAddr = a := by rw [State.fetchAddr, h, BitVec.add_sub_cancel]
  rw [State.raise, ha]

/-! ## The answer of each instruction of 41_flow.md (R58-R65) -/

theorem exec_jp (nnn : Addr) (s : State) : exec (.jp nnn) s = .next (s.setPc (zextAddr nnn)) := rfl

theorem exec_jpV0 (nnn : Addr) (s : State) :
    exec (.jpV0 nnn) s = .next (s.setPc (zextAddr nnn + zextByte (s.getV 0))) := rfl

theorem exec_call_of_lt (nnn : Addr) {s : State} (h : s.depth < 16) :
    exec (.call nnn) s = .next ({ s with stack := s.stack ++ [s.pc] }.setPc (zextAddr nnn)) := by
  simp only [exec, execCall, s.push_of_lt s.pc h]

theorem exec_call_of_full (nnn : Addr) {s : State} (h : s.depth = 16) :
    exec (.call nnn) s = .next (s.raise .stackOverflow (encode (.call nnn))) := by
  simp only [exec, execCall, s.push_of_full s.pc h.ge]

theorem exec_ret_of_frame (u : Nibble) {s : State} {below : List Word} {w : Word} (h : s.stack = below ++ [w]) :
    exec (.ret u) s = .next ({ s with stack := below }.setPc w) := by
  simp only [exec, execRet, s.pop_of_frame h]

theorem exec_ret_of_empty (u : Nibble) {s : State} (h : s.depth = 0) :
    exec (.ret u) s = .next (s.raise .stackUnderflow (encode (.ret u))) := by
  simp only [exec, execRet, s.pop_of_empty h]

theorem exec_seImm (x : Reg) (nn : Byte) (s : State) :
    exec (.seImm x nn) s = .next (s.setPc (if s.getV x = nn then s.pc + 2 else s.pc)) :=
  congrArg _ (s.skipIf_beq ..)

theorem exec_sneImm (x : Reg) (nn : Byte) (s : State) :
    exec (.sneImm x nn) s = .next (s.setPc (if s.getV x = nn then s.pc else s.pc + 2)) :=
  congrArg _ (s.skipIf_bne ..)

theorem exec_seReg (x y : Reg) (u : Nibble) (s : State) :
    exec (.seReg x y u) s = .next (s.setPc (if s.getV x = s.getV y then s.pc + 2 else s.pc)) :=
  congrArg _ (s.skipIf_beq ..)

theorem exec_sneReg (x y : Reg) (u : Nibble) (s : State) :
    exec (.sneReg x y u) s = .next (s.setPc (if s.getV x = s.getV y then s.pc else s.pc + 2)) :=
  congrArg _ (s.skipIf_bne ..)

/-! ## The obligations -/

/-- Settles O17: both jumps set `pc` alone, and the sum of Bnnn fits in 16 bits. -/
theorem jumpsSetPc : Obligations.JumpsSetPc := by
  refine ⟨encodes_of_opcode 0x1 fun f ho => ?_, encodes_of_opcode 0xB fun f ho => ?_, fun nnn s => ⟨?_, ?_⟩⟩
  · simp [decodeFields, ho]
  · simp [decodeFields, ho]
  · exact ⟨_, exec_jp nnn s, zextAddr_toNat nnn, frame_setPc ..⟩
  · exact ⟨_, exec_jpV0 nnn s, zextAddr_add_zextByte_toNat .., frame_setPc ..⟩

/-- Settles O18: a push below 16 frames, a fault of the fetched word at 16. -/
theorem callPushesReturnAddress : Obligations.CallPushesReturnAddress := by
  refine ⟨encodes_of_opcode 0x2 fun f ho => ?_, fun nnn s => ⟨fun hlt => ?_, fun a hfull hpc => ?_⟩⟩
  · simp [decodeFields, ho]
  · exact ⟨_, exec_call_of_lt nnn hlt, rfl, zextAddr_toNat nnn, frame_setPc_stack ..⟩
  · rw [exec_call_of_full nnn hfull, State.raise_of_fetched hpc]
    rfl

/-- Settles O19: a pop with a frame held, a fault of the fetched word with none. -/
theorem returnPopsAddress : Obligations.ReturnPopsAddress := by
  refine ⟨encodes_of_opcode_nn 0x0 0xEE fun f ho hnn => ?_, fun u s => ⟨fun below w hs => ?_, fun a hempty hpc => ?_⟩⟩
  · simp [decodeFields, decodeGroup0, ho, hnn]
  · exact ⟨_, exec_ret_of_frame u hs, rfl, rfl, frame_setPc_stack ..⟩
  · rw [exec_ret_of_empty u hempty, State.raise_of_fetched hpc]
    rfl

/-- Settles O22: each skip on an immediate sets `pc` alone, by the comparison. -/
theorem skipsOnImmediate : Obligations.SkipsOnImmediate := by
  refine ⟨encodes_of_opcode 0x3 fun f ho => ?_, encodes_of_opcode 0x4 fun f ho => ?_, fun x nn s => ⟨?_, ?_⟩⟩
  · simp [decodeFields, ho]
  · simp [decodeFields, ho]
  · exact ⟨_, exec_seImm x nn s, rfl, frame_setPc ..⟩
  · exact ⟨_, exec_sneImm x nn s, rfl, frame_setPc ..⟩

/-- Settles O23: each skip on two registers sets `pc` alone, by the comparison; the low nibble is not read. -/
theorem skipsOnRegisters : Obligations.SkipsOnRegisters := by
  refine ⟨encodes_of_opcode 0x5 fun f ho => ?_, encodes_of_opcode 0x9 fun f ho => ?_, fun x y u s => ⟨?_, ?_⟩⟩
  · simp [decodeFields, ho]
  · simp [decodeFields, ho]
  · exact ⟨_, exec_seReg x y u s, rfl, frame_setPc ..⟩
  · exact ⟨_, exec_sneReg x y u s, rfl, frame_setPc ..⟩

end Sys2Proof.Machine

/-! PROOFS. The statements of 42_alu.md about register loads and the ALU (R68-R78). -/

namespace Sys2Proof

/-! ## The fields that the mask 0xF00F fixes -/

theorem opcode_n_of_mask_F00F {w : Word} {o n : Nibble} (h : w &&& 0xF00F = formatXYN o 0 0 n) :
    (fieldsOf w).opcode = o ∧ (fieldsOf w).n = n := by
  obtain ⟨hopcode, -, -, hlow⟩ := fieldsOf_formatXYN (fieldsOf w).opcode 0 0 (fieldsOf w).n
  rw [← mask_F00F, h] at hopcode hlow
  obtain ⟨ho, -, -, hn⟩ := fieldsOf_formatXYN o 0 0 n
  exact ⟨hopcode.symm.trans ho, hlow.symm.trans hn⟩

end Sys2Proof

namespace Sys2Proof.Machine

/-- A row of group 0x8 of the opcode map from its dispatch on `n` (R47). -/
theorem encodes_of_group8 (n : Nibble) {mk : Fields → Instr}
    (h : ∀ f : Fields, f.n = n → decodeGroup8 f = .instr (mk f)) : Encodes 0xF00F (formatXYN 0x8 0 0 n) mk := by
  intro w hw
  obtain ⟨ho, hn⟩ := opcode_n_of_mask_F00F hw
  have hgroup : decode w = decodeGroup8 (fieldsOf w) := by simp [decode, decodeFields, ho]
  rw [hgroup, h _ hn]

/-! ## What a write of one register, or of the flag and then one register, leaves unchanged -/

theorem frame_setV (s : State) (x : Reg) (b : Byte) : Frame { regs := [x] } s (s.setV x b) := by
  constructor <;> simp +contextual [State.getV_setV]

theorem frame_flagged (s : State) (x y : Reg) (c : Bool) (op : Byte → Byte → Byte) :
    Frame { regs := [x, VF] } s (s.flagged x y c op) := by
  constructor <;> simp +contextual [State.flagged, State.setFlag, State.getV_setV]

/-! ## The flags as numbers (R66, R74-R78) -/

theorem flagByte_decide_toNat (p : Prop) [Decidable p] : (flagByte (decide p)).toNat = if p then 1 else 0 := by
  by_cases hp : p <;> simp [flagByte, hp]

theorem flagByte_getLsbD_toNat (a : Byte) (i : Nat) : (flagByte (a.getLsbD i)).toNat = a.toNat / 2 ^ i % 2 := by
  rw [BitVec.getLsbD, Nat.testBit_eq_decide_div_mod_eq, flagByte_decide_toNat]
  split <;> omega

theorem flagByte_shrFlag_toNat (a : Byte) : (flagByte (shrFlag a)).toNat = a.toNat % 2 := by
  rw [shrFlag, flagByte_getLsbD_toNat, pow_zero, Nat.div_one]

theorem shlFlagIndex_eq (p : ShlFlagBit) : shlFlagIndex p = if p = .bit7 then 7 else 3 := by
  cases p <;> rfl

theorem flagByte_shlFlag_toNat (p : ShlFlagBit) (a : Byte) :
    (flagByte (shlFlag p a)).toNat = a.toNat / 2 ^ (if p = .bit7 then 7 else 3) % 2 := by
  rw [shlFlag, flagByte_getLsbD_toNat, shlFlagIndex_eq]

/-! ## The byte operations as arithmetic modulo 256 -/

theorem byte_sub_toNat (a b : Byte) : (a - b).toNat = (256 + a.toNat - b.toNat) % 256 := by
  rw [BitVec.toNat_sub]
  omega

theorem byte_shiftRight_one_toNat (a : Byte) : (a >>> 1).toNat = a.toNat / 2 := by
  rw [BitVec.toNat_ushiftRight, Nat.shiftRight_eq_div_pow, pow_one]

theorem byte_shiftLeft_one_toNat (a : Byte) : (a <<< 1).toNat = 2 * a.toNat % 256 := by
  rw [BitVec.toNat_shiftLeft, Nat.shiftLeft_eq, pow_one, Nat.mul_comm]

/-! ## The registers that a flag-writing instruction writes (R67) -/

theorem State.getV_flagged_VF {s : State} {x : Reg} (y : Reg) (c : Bool) (op : Byte → Byte → Byte) (hx : x ≠ VF) :
    (s.flagged x y c op).getV VF = flagByte c := by
  rw [State.flagged, State.getV_setV_ne _ _ hx.symm, State.getV_setFlag, if_pos rfl]

/-- The common form of R74-R78: `flag` and `f` are the flag and the operation as numbers, and an operand that is `VF` reads as the flag
under `sequential`. -/
theorem State.flagged_toNat (s : State) (x y : Reg) {c : Bool} {op : Byte → Byte → Byte} {flag : Nat}
    (f : Nat → Nat → Nat) (hflag : (flagByte c).toNat = flag) (hop : ∀ a b, (op a b).toNat = f a.toNat b.toNat) :
    ((s.flagged x y c op).getV x).toNat =
        f (if s.params.vfRead = .sequential ∧ x = VF then flag else (s.getV x).toNat)
          (if s.params.vfRead = .sequential ∧ y = VF then flag else (s.getV y).toNat) ∧
      (x ≠ VF → ((s.flagged x y c op).getV VF).toNat = flag) := by
  subst hflag
  refine ⟨?_, fun hx => congrArg _ (State.getV_flagged_VF y c op hx)⟩
  rw [State.flagged_eq, State.getV_setV_self, hop, apply_ite BitVec.toNat, apply_ite BitVec.toNat]

/-! ## The answer of each instruction of 42_alu.md (R68-R78) -/

theorem exec_ldImm (x : Reg) (nn : Byte) (s : State) : exec (.ldImm x nn) s = .next (s.setV x nn) := rfl

theorem exec_addImm (x : Reg) (nn : Byte) (s : State) : exec (.addImm x nn) s = .next (s.setV x (s.getV x + nn)) := rfl

theorem exec_ldReg (x y : Reg) (s : State) : exec (.ldReg x y) s = .next (s.setV x (s.getV y)) := rfl

theorem exec_orReg (x y : Reg) (s : State) : exec (.orReg x y) s = .next (s.setV x (s.getV x ||| s.getV y)) := rfl

theorem exec_andReg (x y : Reg) (s : State) : exec (.andReg x y) s = .next (s.setV x (s.getV x &&& s.getV y)) := rfl

theorem exec_xorReg (x y : Reg) (s : State) : exec (.xorReg x y) s = .next (s.setV x (s.getV x ^^^ s.getV y)) := rfl

theorem exec_addReg (x y : Reg) (s : State) :
    exec (.addReg x y) s = .next (s.flagged x y (carryFlag (s.getV x) (s.getV y)) (fun a b => a + b)) := rfl

theorem exec_subReg (x y : Reg) (s : State) :
    exec (.subReg x y) s = .next (s.flagged x y (greaterFlag (s.getV x) (s.getV y)) (fun a b => a - b)) := rfl

theorem exec_shrReg (x y : Reg) (s : State) :
    exec (.shrReg x y) s = .next (s.flagged x y (shrFlag (s.getV x)) (fun a _ => a >>> 1)) := rfl

theorem exec_subnReg (x y : Reg) (s : State) :
    exec (.subnReg x y) s = .next (s.flagged x y (greaterFlag (s.getV y) (s.getV x)) (fun a b => b - a)) := rfl

theorem exec_shlReg (x y : Reg) (s : State) :
    exec (.shlReg x y) s = .next (s.flagged x y (shlFlag s.params.shlFlagBit (s.getV x)) (fun a _ => a <<< 1)) := rfl

/-! ## The obligations -/

/-- Settles O24: each instruction is one register write. -/
theorem loadsAndImmediateAdd : Obligations.LoadsAndImmediateAdd := by
  refine ⟨encodes_of_opcode 0x6 fun f ho => ?_, encodes_of_opcode 0x7 fun f ho => ?_,
    encodes_of_group8 0x0 fun f hn => ?_, fun x y nn s => ⟨?_, ?_, ?_⟩⟩
  · simp [decodeFields, ho]
  · simp [decodeFields, ho]
  · simp [decodeGroup8, hn]
  · exact ⟨_, exec_ldImm x nn s, s.getV_setV_self x nn, frame_setV ..⟩
  · refine ⟨_, exec_addImm x nn s, ?_, frame_setV ..⟩
    rw [State.getV_setV_self, BitVec.toNat_add]
  · exact ⟨_, exec_ldReg x y s, s.getV_setV_self x _, frame_setV ..⟩

/-- Settles O25: each instruction is one register write, of an operation that acts on each bit by itself. -/
theorem bitwiseOperations : Obligations.BitwiseOperations := by
  refine ⟨encodes_of_group8 0x1 fun f hn => ?_, encodes_of_group8 0x2 fun f hn => ?_,
    encodes_of_group8 0x3 fun f hn => ?_, fun x y s => ⟨?_, ?_, ?_⟩⟩
  · simp [decodeGroup8, hn]
  · simp [decodeGroup8, hn]
  · simp [decodeGroup8, hn]
  · refine ⟨_, exec_orReg x y s, frame_setV .., fun b => ?_⟩
    rw [State.getV_setV_self, BitVec.getLsbD_or]
  · refine ⟨_, exec_andReg x y s, frame_setV .., fun b => ?_⟩
    rw [State.getV_setV_self, BitVec.getLsbD_and]
  · refine ⟨_, exec_xorReg x y s, frame_setV .., fun b => ?_⟩
    rw [State.getV_setV_self, BitVec.getLsbD_xor]

/-- Settles O26: the common form, with the carry of the exact sum and addition modulo 256. -/
theorem addSetsCarry : Obligations.AddSetsCarry := by
  refine ⟨encodes_of_group8 0x4 fun f hn => ?_, fun x y s => ⟨_, exec_addReg x y s, ?_, frame_flagged ..⟩⟩
  · simp [decodeGroup8, hn]
  · exact s.flagged_toNat x y (fun a b => (a + b) % 256) (flagByte_decide_toNat _) BitVec.toNat_add

/-- Settles O27: the common form twice, with the strict comparison and subtraction modulo 256, the operands swapped in 8xy7. -/
theorem subtractSetsGreater : Obligations.SubtractSetsGreater := by
  refine ⟨encodes_of_group8 0x5 fun f hn => ?_, encodes_of_group8 0x7 fun f hn => ?_, fun x y s =>
    ⟨⟨_, exec_subReg x y s, ?_, frame_flagged ..⟩, ⟨_, exec_subnReg x y s, ?_, frame_flagged ..⟩⟩⟩
  · simp [decodeGroup8, hn]
  · simp [decodeGroup8, hn]
  · exact s.flagged_toNat x y (fun a b => (256 + a - b) % 256) (flagByte_decide_toNat _) byte_sub_toNat
  · exact s.flagged_toNat x y (fun a b => (256 + b - a) % 256) (flagByte_decide_toNat _) fun a b => byte_sub_toNat b a

/-- Settles O28: the common form twice, with a bit of V[x] as the flag and an operation that drops its second operand. -/
theorem shiftsSetShiftedBit : Obligations.ShiftsSetShiftedBit := by
  refine ⟨encodes_of_group8 0x6 fun f hn => ?_, encodes_of_group8 0xE fun f hn => ?_, fun x y s =>
    ⟨⟨_, exec_shrReg x y s, ?_, frame_flagged ..⟩, ⟨_, exec_shlReg x y s, ?_, frame_flagged ..⟩⟩⟩
  · simp [decodeGroup8, hn]
  · simp [decodeGroup8, hn]
  · exact s.flagged_toNat x y (fun a _ => a / 2) (flagByte_shrFlag_toNat _) fun a _ => byte_shiftRight_one_toNat a
  · exact s.flagged_toNat x y (fun a _ => 2 * a % 256) (flagByte_shlFlag_toNat _ _) fun a _ =>
      byte_shiftLeft_one_toNat a

end Sys2Proof.Machine

/-! PROOFS. The statements of 43_index_memory.md about the index register and memory transfers (R80-R85). -/

namespace Sys2Proof.Machine

/-! ## Frames grow update by update -/

theorem Frame.refl (f : Touches) (s : State) : Frame f s s := by
  constructor <;> simp

theorem Frame.writeMem {f : Touches} {s t : State} (h : Frame f s t) {a : Nat} (ha : a % memSize ∈ f.cells) (b : Byte) :
    Frame f s (t.writeMem a b) :=
  { h with
    mem := fun k hk => by
      have hne : k % memSize ≠ a % memSize := fun e => hk (e ▸ ha)
      rw [State.readMem_writeMem_of_mod_ne _ _ hne, h.mem k hk] }

theorem Frame.setV {f : Touches} {s t : State} (h : Frame f s t) {x : Reg} (hx : x ∈ f.regs) (b : Byte) :
    Frame f s (t.setV x b) :=
  { h with
    regs := fun r hr => by
      have hne : r ≠ x := fun e => hr (e ▸ hx)
      rw [State.getV_setV_ne _ _ hne, h.regs r hr] }

theorem frame_setI (s : State) (w : Word) : Frame { index := true } s (s.setI w) := by
  constructor <;> simp

/-! ## The addresses `I + k` (R34) -/

/-- Offsets below 4096 reach different cells, wherever the addresses wrap. -/
theorem State.indexAddr_mod_ne (s : State) {j k : Nat} (hj : j < memSize) (hk : k < memSize) (hne : j ≠ k) :
    s.indexAddr j % memSize ≠ s.indexAddr k % memSize := by
  simp only [State.indexAddr, memSize] at *
  omega

theorem State.indexAddr_reg_mod_ne (s : State) {r q : Reg} (hne : r ≠ q) :
    s.indexAddr r.val % memSize ≠ s.indexAddr q.val % memSize :=
  s.indexAddr_mod_ne (r.isLt.trans (by decide)) (q.isLt.trans (by decide)) (Fin.val_ne_of_ne hne)

theorem State.indexAddr_mod_mem_indexCells (s : State) {k : Nat} {ks : List Nat} (hk : k ∈ ks) :
    s.indexAddr k % memSize ∈ s.indexCells ks :=
  List.mem_map_of_mem hk

/-- An update that leaves `I` alone leaves the addresses of a transfer alone. -/
theorem Frame.indexAddr_eq {f : Touches} {s t : State} (h : Frame f s t) (hi : f.index = false) (k : Nat) :
    t.indexAddr k = s.indexAddr k := by
  rw [State.indexAddr, h.index hi, State.indexAddr]

/-! ## Operands as numbers (R82, R83) -/

/-- The largest glyph address, of V[x] = 255, fits in 16 bits, so the sum of R82 is exact. -/
theorem glyphAddr_toNat (b : Byte) : (glyphAddr b).toNat = b.toNat * 5 + 0x050 :=
  Nat.mod_eq_of_lt (show b.toNat * 5 + 0x050 < 2 ^ 16 by omega)

theorem hundreds_toNat (b : Byte) : (hundreds b).toNat = b.toNat / 100 := Nat.mod_eq_of_lt (by omega)

theorem tens_toNat (b : Byte) : (tens b).toNat = b.toNat / 10 % 10 := Nat.mod_eq_of_lt (by omega)

theorem ones_toNat (b : Byte) : (ones b).toNat = b.toNat % 10 := Nat.mod_eq_of_lt (by omega)

/-! ## Fx33's three writes (R83) -/

/-- The state that Fx33 answers, with the three digits as parameters. -/
def State.storeThree (s : State) (b₀ b₁ b₂ : Byte) : State :=
  ((s.writeMem (s.indexAddr 0) b₀).writeMem (s.indexAddr 1) b₁).writeMem (s.indexAddr 2) b₂

theorem State.readMem_storeThree (s : State) (b₀ b₁ b₂ : Byte) :
    (s.storeThree b₀ b₁ b₂).readMem (s.indexAddr 0) = b₀ ∧ (s.storeThree b₀ b₁ b₂).readMem (s.indexAddr 1) = b₁ ∧
      (s.storeThree b₀ b₁ b₂).readMem (s.indexAddr 2) = b₂ := by
  have h01 := s.indexAddr_mod_ne (j := 0) (k := 1) (by decide) (by decide) (by decide)
  have h02 := s.indexAddr_mod_ne (j := 0) (k := 2) (by decide) (by decide) (by decide)
  have h12 := s.indexAddr_mod_ne (j := 1) (k := 2) (by decide) (by decide) (by decide)
  refine ⟨?_, ?_, State.readMem_writeMem_same ..⟩
  · rw [State.storeThree, State.readMem_writeMem_of_mod_ne _ _ h02, State.readMem_writeMem_of_mod_ne _ _ h01,
      State.readMem_writeMem_same]
  · rw [State.storeThree, State.readMem_writeMem_of_mod_ne _ _ h12, State.readMem_writeMem_same]

theorem frame_storeThree (s : State) (b₀ b₁ b₂ : Byte) :
    Frame { cells := s.indexCells [0, 1, 2] } s (s.storeThree b₀ b₁ b₂) :=
  (((Frame.refl _ s).writeMem (s.indexAddr_mod_mem_indexCells (by simp)) b₀).writeMem
    (s.indexAddr_mod_mem_indexCells (by simp)) b₁).writeMem (s.indexAddr_mod_mem_indexCells (by simp)) b₂

/-! ## Fx55's loop (R84) -/

@[simp] theorem State.storeReg_getV (s : State) (q r : Reg) : (s.storeReg q).getV r = s.getV r := rfl
@[simp] theorem State.storeReg_indexAddr (s : State) (q : Reg) (k : Nat) : (s.storeReg q).indexAddr k = s.indexAddr k := rfl

theorem State.readMem_storeReg (s : State) (q r : Reg) :
    (s.storeReg q).readMem (s.indexAddr r.val) = if r = q then s.getV r else s.readMem (s.indexAddr r.val) := by
  by_cases h : r = q
  · rw [if_pos h, h, State.storeReg, State.readMem_writeMem_same]
  · rw [if_neg h, State.storeReg, State.readMem_writeMem_of_mod_ne _ _ (s.indexAddr_reg_mod_ne h)]

/-- The loop changes no register and no address, so what a turn stores does not depend on the turns before it. -/
theorem State.readMem_storeRegs (rs : List Reg) (s : State) (r : Reg) :
    (rs.foldl State.storeReg s).readMem (s.indexAddr r.val) =
      if r ∈ rs then s.getV r else s.readMem (s.indexAddr r.val) := by
  induction rs generalizing s with
  | nil => simp
  | cons q rs ih =>
    have ih := ih (s.storeReg q)
    rw [State.storeReg_indexAddr, State.storeReg_getV, State.readMem_storeReg] at ih
    rw [List.foldl_cons, ih]
    by_cases hrs : r ∈ rs <;> simp [hrs]

theorem frame_storeRegs (s : State) {rs : List Reg} {ks : List Nat} (hks : ∀ r ∈ rs, r.val ∈ ks) :
    Frame { cells := s.indexCells ks } s (rs.foldl State.storeReg s) :=
  List.foldlRecOn rs State.storeReg (Frame.refl _ s) fun t ht r hr => by
    refine ht.writeMem ?_ _
    rw [ht.indexAddr_eq rfl]
    exact s.indexAddr_mod_mem_indexCells (hks r hr)

/-! ## Fx65's loop (R85) -/

@[simp] theorem State.loadReg_readMem (s : State) (q : Reg) (a : Nat) : (s.loadReg q).readMem a = s.readMem a := rfl
@[simp] theorem State.loadReg_indexAddr (s : State) (q : Reg) (k : Nat) : (s.loadReg q).indexAddr k = s.indexAddr k := rfl

theorem State.getV_loadReg (s : State) (q r : Reg) :
    (s.loadReg q).getV r = if r = q then s.readMem (s.indexAddr r.val) else s.getV r := by
  by_cases h : r = q
  · rw [if_pos h, h, State.loadReg, State.getV_setV_self]
  · rw [if_neg h, State.loadReg, State.getV_setV_ne _ _ h]

/-- The loop changes neither memory nor an address, so what a turn loads does not depend on the turns before it. -/
theorem State.getV_loadRegs (rs : List Reg) (s : State) (r : Reg) :
    (rs.foldl State.loadReg s).getV r = if r ∈ rs then s.readMem (s.indexAddr r.val) else s.getV r := by
  induction rs generalizing s with
  | nil => simp
  | cons q rs ih =>
    rw [List.foldl_cons, ih, State.loadReg_indexAddr, State.loadReg_readMem, State.getV_loadReg]
    by_cases hrs : r ∈ rs <;> simp [hrs]

theorem frame_loadRegs (s : State) {rs regs : List Reg} (hregs : ∀ r ∈ rs, r ∈ regs) :
    Frame { regs := regs } s (rs.foldl State.loadReg s) :=
  List.foldlRecOn rs State.loadReg (Frame.refl _ s) fun _ ht r hr => ht.setV (hregs r hr) _

/-! ## The registers `V[0]` to `V[x]`, as the frames of R84 and R85 name them -/

theorem val_mem_range_of_mem_regsUpTo {x r : Reg} (h : r ∈ regsUpTo x) : r.val ∈ List.range (x.val + 1) :=
  List.mem_range.2 (Nat.lt_succ_of_le ((mem_regsUpTo x r).1 h))

theorem mem_filter_le_of_mem_regsUpTo {x r : Reg} (h : r ∈ regsUpTo x) :
    r ∈ (List.finRange 16).filter (fun r => r ≤ x) := by
  simpa using (mem_regsUpTo x r).1 h

/-! ## The answer of each instruction of 43_index_memory.md (R80-R85) -/

theorem exec_ldI (nnn : Addr) (s : State) : exec (.ldI nnn) s = .next (s.setI (zextAddr nnn)) := rfl

theorem exec_addIVx (x : Reg) (s : State) : exec (.addIVx x) s = .next (s.setI (s.i + zextByte (s.getV x))) := rfl

theorem exec_ldFVx (x : Reg) (s : State) : exec (.ldFVx x) s = .next (s.setI (glyphAddr (s.getV x))) := rfl

theorem exec_ldBVx (x : Reg) (s : State) :
    exec (.ldBVx x) s = .next (s.storeThree (hundreds (s.getV x)) (tens (s.getV x)) (ones (s.getV x))) := rfl

theorem exec_ldMemVx (x : Reg) (s : State) : exec (.ldMemVx x) s = .next ((regsUpTo x).foldl State.storeReg s) := rfl

theorem exec_ldVxMem (x : Reg) (s : State) : exec (.ldVxMem x) s = .next ((regsUpTo x).foldl State.loadReg s) := rfl

/-! ## The obligations -/

/-- Settles O32: three writes to three cells, of the digits. -/
theorem decimalDigitsStored : Obligations.DecimalDigitsStored := by
  refine ⟨encodes_of_opcode_nn 0xF 0x33 fun f ho hnn => ?_, fun x s => ?_⟩
  · simp [decodeFields, decodeGroupF, ho, hnn]
  · obtain ⟨h0, h1, h2⟩ := s.readMem_storeThree (hundreds (s.getV x)) (tens (s.getV x)) (ones (s.getV x))
    refine ⟨_, exec_ldBVx x s, ?_, ?_, ?_, frame_storeThree ..⟩
    · rw [h0, hundreds_toNat]
    · rw [h1, tens_toNat]
    · rw [h2, ones_toNat]

/-- Settles O33: the loop over `V[0]` to `V[x]`, each of which is stored as it stood at the start. -/
theorem registersStored : Obligations.RegistersStored := by
  refine ⟨encodes_of_opcode_nn 0xF 0x55 fun f ho hnn => ?_, fun x s =>
    ⟨_, exec_ldMemVx x s, fun r hr => ?_, frame_storeRegs s fun _ => val_mem_range_of_mem_regsUpTo⟩⟩
  · simp [decodeFields, decodeGroupF, ho, hnn]
  · rw [State.readMem_storeRegs, if_pos ((mem_regsUpTo x r).2 hr)]

/-- Settles O34: the loop over `V[0]` to `V[x]`, each of which is loaded from memory as it stood at the start. -/
theorem registersLoaded : Obligations.RegistersLoaded := by
  refine ⟨encodes_of_opcode_nn 0xF 0x65 fun f ho hnn => ?_, fun x s =>
    ⟨_, exec_ldVxMem x s, fun r hr => ?_, frame_loadRegs s fun _ => mem_filter_le_of_mem_regsUpTo⟩⟩
  · simp [decodeFields, decodeGroupF, ho, hnn]
  · rw [State.getV_loadRegs, if_pos ((mem_regsUpTo x r).2 hr)]

/-- Settles O31: each instruction sets `I` alone; only the sum of Fx1E can wrap. -/
theorem indexRegisterWrites : Obligations.IndexRegisterWrites := by
  refine ⟨encodes_of_opcode 0xA fun f ho => ?_, encodes_of_opcode_nn 0xF 0x1E fun f ho hnn => ?_,
    encodes_of_opcode_nn 0xF 0x29 fun f ho hnn => ?_, fun nnn x s => ⟨?_, ?_, ?_⟩⟩
  · simp [decodeFields, ho]
  · simp [decodeFields, decodeGroupF, ho, hnn]
  · simp [decodeFields, decodeGroupF, ho, hnn]
  · exact ⟨_, exec_ldI nnn s, zextAddr_toNat nnn, frame_setI ..⟩
  · refine ⟨_, exec_addIVx x s, ?_, frame_setI ..⟩
    rw [State.setI_i, BitVec.toNat_add, zextByte_toNat]
  · exact ⟨_, exec_ldFVx x s, glyphAddr_toNat _, frame_setI ..⟩

end Sys2Proof.Machine

/-! PROOFS. The statements of 44_display.md about the clear and the loops of a draw (R86, R87). -/

namespace Sys2Proof.Machine

/-! ## Frames grow by the updates of the display -/

theorem Frame.setPixel {f : Touches} {s t : State} (h : Frame f s t) (hf : f.display = true) (c : Col) (r : Row) (b : Bool) :
    Frame f s (t.setPixel c r b) :=
  { h with display := fun hd => absurd hf (by simp [hd]) }

theorem Frame.clearDisplay {f : Touches} {s t : State} (h : Frame f s t) (hf : f.display = true) :
    Frame f s t.clearDisplay :=
  { h with display := fun hd => absurd hf (by simp [hd]) }

theorem Frame.setRedraw {f : Touches} {s t : State} (h : Frame f s t) (hf : f.redraw = true) (b : Bool) :
    Frame f s (t.setRedraw b) :=
  { h with redraw := fun hr => absurd hf (by simp [hr]) }

/-! ## A clear (R86) -/

theorem State.anyPixel_iff (s : State) : s.anyPixel = true ↔ ∃ c r, s.pixel c r = true := by
  simp only [State.anyPixel, State.pixel, List.any_eq_true, Vector.mem_toList_iff, Vector.mem_iff_getElem, id]
  constructor
  · rintro ⟨_, ⟨c, hc, rfl⟩, _, ⟨r, hr, rfl⟩, hset⟩
    exact ⟨⟨c, hc⟩, ⟨r, hr⟩, hset⟩
  · rintro ⟨c, r, hset⟩
    exact ⟨_, ⟨c, c.isLt, rfl⟩, _, ⟨r, r.isLt, rfl⟩, hset⟩

theorem exec_cls_of_anyPixel (u : Nibble) {s : State} (h : s.anyPixel = true) :
    exec (.cls u) s = .next (s.clearDisplay.setRedraw true) :=
  congrArg Host.Outcome.next (if_pos h)

theorem exec_cls_of_not_anyPixel (u : Nibble) {s : State} (h : ¬ s.anyPixel = true) :
    exec (.cls u) s = .next s.clearDisplay :=
  congrArg Host.Outcome.next (if_neg h)

/-! ## One bit of a sprite (R87) -/

/-- The tests on the old and the new pixel are tests on the bit: XOR changes a pixel when the bit is set, and unsets it when the pixel
was set too. -/
theorem State.xorPixel_eq (s : State) (c : Col) (r : Row) (bit : Bool) :
    s.xorPixel c r bit =
      let shown := (s.setPixel c r (s.pixel c r ^^ bit)).setRedraw (s.shouldRedraw || bit)
      if s.pixel c r && bit then shown.setFlag true else shown := by
  rw [State.xorPixel]
  cases s.pixel c r <;> cases bit <;> simp [State.plot_eq, State.setPixel, State.setRedraw, State.setFlag, State.setV, flagByte]

theorem State.pixel_xorPixel (s : State) (c c' : Col) (r r' : Row) (bit : Bool) :
    (s.xorPixel c r bit).pixel c' r' = if c' = c ∧ r' = r then s.pixel c r ^^ bit else s.pixel c' r' := by
  rw [State.xorPixel_eq, ← State.pixel_setPixel]
  split <;> rfl

theorem State.shouldRedraw_xorPixel (s : State) (c : Col) (r : Row) (bit : Bool) :
    (s.xorPixel c r bit).shouldRedraw = (s.shouldRedraw || bit) := by
  rw [State.xorPixel_eq]
  split <;> rfl

theorem State.getV_VF_xorPixel (s : State) (c : Col) (r : Row) (bit : Bool) :
    (s.xorPixel c r bit).getV VF = if s.pixel c r && bit then flagByte true else s.getV VF := by
  rw [State.xorPixel_eq]
  split
  · exact State.getV_setV_self ..
  · rfl

/-- What a draw may touch. -/
def drawTouches : Touches := { regs := [VF], display := true, redraw := true }

theorem Frame.xorPixel {s t : State} (h : Frame drawTouches s t) (c : Col) (r : Row) (bit : Bool) :
    Frame drawTouches s (t.xorPixel c r bit) := by
  rw [State.xorPixel_eq]
  have shown := (h.setPixel rfl c r (t.pixel c r ^^ bit)).setRedraw rfl (t.shouldRedraw || bit)
  split
  · exact shown.setV (List.mem_singleton_self VF) _
  · exact shown

/-! ## The model's loop and the loops of R87 move together -/

/-- A coordinate of a draw that began in `s`, as a function of the live flag (R67, R87). -/
def State.drawCoord (s : State) (r : Reg) (flag : Bool) : Byte :=
  if s.params.vfRead = .sequential ∧ r = VF then flagByte flag else s.getV r

/-- A draw that began in `s` has reached `t`, and R87's loops over the parts that a draw computes have reached `acc`. -/
structure Drawn (s t : State) (acc : DrawAcc) : Prop where
  frame  : Frame drawTouches s t
  pixel  : ∀ c r, t.pixel c r = acc.px c r
  flag   : t.getV VF = flagByte acc.flag
  redraw : t.shouldRedraw = acc.redraw

theorem drawn_start (s : State) : Drawn s (s.setFlag false) { px := s.pixel, flag := false, redraw := s.shouldRedraw } where
  frame := (Frame.refl _ s).setV (List.mem_singleton_self VF) _
  pixel _ _ := rfl
  flag := State.getV_setV_self ..
  redraw := rfl

theorem Drawn.xorPixel {s t : State} {acc : DrawAcc} (h : Drawn s t acc) (c : Col) (r : Row) (bit : Bool) :
    Drawn s (t.xorPixel c r bit) (acc.flip c r bit) where
  frame := h.frame.xorPixel c r bit
  pixel c' r' := by rw [State.pixel_xorPixel, h.pixel, h.pixel]; rfl
  flag := by
    rw [State.getV_VF_xorPixel, h.pixel, h.flag, ← apply_ite flagByte]
    cases hc : acc.px c r && bit <;> simp [DrawAcc.flip, hc]
  redraw := by rw [State.shouldRedraw_xorPixel, h.redraw]; rfl

/-- Only `VF` differs from the start, and it holds the live flag. -/
theorem Drawn.readAfterFlag {s t : State} {acc : DrawAcc} (h : Drawn s t acc) (r : Reg) :
    t.readAfterFlag r (s.getV r) = s.drawCoord r acc.flag := by
  have hv : t.getV r = (s.setFlag acc.flag).getV r := by
    rw [State.getV_setFlag]
    split
    next hr => rw [hr, h.flag]
    next hr => exact h.frame.regs r (by simpa [drawTouches] using hr)
  rw [State.drawCoord, ← State.readAfterFlag_eq, State.readAfterFlag, State.readAfterFlag, h.frame.params, hv]
  rfl

theorem Drawn.spriteBit {s t : State} {acc : DrawAcc} (h : Drawn s t acc) (row k : Nat) :
    t.spriteBit row k = (s.readMem (s.i.toNat + row)).getLsbD (7 - k) := by
  rw [State.spriteBit, State.indexAddr, h.frame.index rfl, h.frame.mem _ List.not_mem_nil]

/-- One turn of the inner loop: the coordinates and the bit are those of R87, whatever the draw has done so far. -/
theorem Drawn.drawBit {s t : State} {acc : DrawAcc} (h : Drawn s t acc) (x y : Reg) (row k : Nat) :
    Drawn s (State.drawBit x y (s.getV x) (s.getV y) t (row, k))
      (acc.flip (colAt (s.drawCoord x acc.flag) k) (rowAt (s.drawCoord y acc.flag) row)
        ((s.readMem (s.i.toNat + row)).getLsbD (7 - k))) := by
  rw [State.drawBit, h.readAfterFlag, h.readAfterFlag, h.spriteBit]
  exact h.xorPixel ..

theorem Drawn.rowLoop {s t : State} {acc : DrawAcc} (h : Drawn s t acc) (x y : Reg) (row k : Nat) :
    Drawn s (((List.range k).map fun k => (row, k)).foldl (State.drawBit x y (s.getV x) (s.getV y)) t)
      (drawRowLoop (s.drawCoord x) (s.drawCoord y) (s.readMem (s.i.toNat + row)) row k acc) := by
  induction k with
  | zero => exact h
  | succ k ih =>
    rw [List.range_succ, List.map_append, List.foldl_append]
    exact ih.drawBit x y row k

theorem spriteBits_succ (n : Nat) : spriteBits (n + 1) = spriteBits n ++ (List.range 8).map fun k => (n, k) := by
  rw [spriteBits, List.range_succ (n := n), List.flatMap_append, List.flatMap_singleton, spriteBits]

theorem Drawn.loop {s t : State} {acc : DrawAcc} (h : Drawn s t acc) (x y : Reg) (n : Nat) :
    Drawn s ((spriteBits n).foldl (State.drawBit x y (s.getV x) (s.getV y)) t)
      (drawLoop (s.drawCoord x) (s.drawCoord y) (fun row => s.readMem (s.i.toNat + row)) n acc) := by
  induction n with
  | zero => exact h
  | succ n ih =>
    rw [spriteBits_succ, List.foldl_append]
    exact ih.rowLoop x y n 8

theorem exec_drw (x y : Reg) (n : Nibble) (s : State) :
    exec (.drw x y n) s =
      .next ((spriteBits n.toNat).foldl (State.drawBit x y (s.getV x) (s.getV y)) (s.setFlag false)) := rfl

/-! ## The obligations -/

/-- Settles O37: both loops start alike, and a turn of one is a turn of the other. -/
theorem drawFollowsLoops : Obligations.DrawFollowsLoops := by
  refine ⟨encodes_of_opcode 0xD fun f ho => ?_, fun x y n s => ?_⟩
  · simp [decodeFields, ho]
  · obtain ⟨frame, pixel, flag, redraw⟩ := (drawn_start s).loop x y n.toNat
    exact ⟨_, exec_drw x y n s, pixel, flag, redraw, frame⟩

/-- Settles O36: a clear of a display with a pixel set, and of an empty one. -/
theorem clearDisplayClears : Obligations.ClearDisplayClears := by
  refine ⟨encodes_of_opcode_nn 0x0 0xE0 fun f ho hnn => ?_, fun u s => ?_⟩
  · simp [decodeFields, decodeGroup0, ho, hnn]
  · have cleared := (Frame.refl { display := true, redraw := true } s).clearDisplay rfl
    by_cases hany : s.anyPixel = true
    · refine ⟨_, exec_cls_of_anyPixel u hany, s.pixel_clearDisplay, fun _ => rfl, fun hnone => ?_,
        cleared.setRedraw rfl true⟩
      obtain ⟨c, r, hset⟩ := s.anyPixel_iff.1 hany
      exact absurd hset (by simp [hnone])
    · exact ⟨_, exec_cls_of_not_anyPixel u hany, s.pixel_clearDisplay,
        fun hset => absurd (s.anyPixel_iff.2 hset) hany, fun _ => rfl, cleared⟩

end Sys2Proof.Machine

/-! PROOFS. The statements of 45_keys_timers.md about keys and the timer registers (R88-R93). -/

namespace Sys2Proof.Machine

/-! ## A byte as a key code (R88, R90) -/

theorem State.keyPressed_iff (s : State) (b : Byte) :
    s.keyPressed b = true ↔ ∃ k : Key, b.toNat = k.val ∧ s.held k = true := by
  unfold State.keyPressed
  split
  case isTrue hlt =>
    refine ⟨fun hheld => ⟨⟨b.toNat, hlt⟩, rfl, hheld⟩, fun ⟨k, hk, hheld⟩ => ?_⟩
    have hcode : ⟨b.toNat, hlt⟩ = k := Fin.ext hk
    rwa [hcode]
  case isFalse hge =>
    have hnot : ¬ ∃ k : Key, b.toNat = k.val ∧ s.held k = true := fun ⟨k, hk, _⟩ => hge (hk ▸ k.isLt)
    simp [hnot]

theorem keyByte_toNat (k : Key) : (keyByte k).toNat = k.val := Nat.mod_eq_of_lt (by omega)

/-! ## What a write of a timer leaves unchanged -/

theorem frame_setDt (s : State) (b : Byte) : Frame { delay := true } s (s.setDt b) := by
  constructor <;> simp

theorem frame_setSt (s : State) (b : Byte) : Frame { sound := true } s (s.setSt b) := by
  constructor <;> simp

/-! ## The answer of each instruction of 45_keys_timers.md (R88-R93) -/

theorem exec_skp (x : Reg) (s : State) :
    exec (.skp x) s = .next (s.setPc (if s.keyPressed (s.getV x) then s.pc + 2 else s.pc)) :=
  congrArg _ (s.skipIf_eq _)

theorem exec_sknp (x : Reg) (s : State) :
    exec (.sknp x) s = .next (s.setPc (if s.keyPressed (s.getV x) then s.pc else s.pc + 2)) := by
  have hskip := s.skipIf_eq (!s.keyPressed (s.getV x))
  simp only [Bool.not_eq_true', ← Bool.not_eq_true, ite_not] at hskip
  exact congrArg _ hskip

theorem exec_ldVxK_of_none_held (x : Reg) {s : State} (h : ∀ k, s.held k = false) :
    exec (.ldVxK x) s = .next (s.setPc (s.pc - 2)) :=
  if_pos ((heldKeys_isEmpty s.keys).2 h)

theorem exec_ldVxK_of_held (x : Reg) {s : State} (h : ∃ k, s.held k = true) :
    exec (.ldVxK x) s = .next (s.setV x (keyByte (pickKey s.keys))) := by
  obtain ⟨k, hk⟩ := h
  exact if_neg fun hempty => Bool.false_ne_true (((heldKeys_isEmpty s.keys).1 hempty k).symm.trans hk)

theorem exec_ldVxDt (x : Reg) (s : State) : exec (.ldVxDt x) s = .next (s.setV x s.dt) := rfl

theorem exec_ldDtVx (x : Reg) (s : State) : exec (.ldDtVx x) s = .next (s.setDt (s.getV x)) := rfl

theorem exec_ldStVx (x : Reg) (s : State) : exec (.ldStVx x) s = .next (s.setSt (s.getV x)) := rfl

/-- The handler's `pc - 2` undoes the advance of the fetch, so that of the handler's entry only the cleared should_redraw remains. -/
theorem State.cycle_of_wait {s : State} {x : Reg} (hnone : ∀ k, s.held k = false) (hf : s.fault = none)
    (hd : decode s.fetchWord = .instr (.ldVxK x)) : s.cycle = .next (s.setRedraw false) := by
  rw [State.cycle_of_instr hf hd, exec_ldVxK_of_none_held x (s := s.handlerEntry) hnone, State.handlerEntry_pc,
    BitVec.add_sub_cancel]
  rfl

/-! ## The obligations -/

/-- Settles O41: `pickKey` is the choice function, and no key held means an empty list of held keys. -/
theorem waitForKey : Obligations.WaitForKey := by
  refine ⟨encodes_of_opcode_nn 0xF 0x0A fun f ho hnn => ?_, fun x s a hnone hpc => ?_,
    fun x s hnone hf hd => State.cycle_of_wait hnone hf hd, pickKey, pickKey_held, fun x s hheld => ?_⟩
  · simp [decodeFields, decodeGroupF, ho, hnn]
  · refine ⟨_, exec_ldVxK_of_none_held x hnone, ?_, frame_setPc ..⟩
    rw [State.setPc_pc, hpc, BitVec.add_sub_cancel]
  · refine ⟨_, exec_ldVxK_of_held x hheld, ?_, frame_setV ..⟩
    rw [State.getV_setV_self, keyByte_toNat]

/-- Settles O40: each skip sets `pc` alone, by whether V[x] is the code of a held key. -/
theorem skipsOnKeys : Obligations.SkipsOnKeys := by
  refine ⟨encodes_of_opcode_nn 0xE 0x9E fun f ho hnn => ?_, encodes_of_opcode_nn 0xE 0xA1 fun f ho hnn => ?_,
    fun x s => ?_⟩
  · simp [decodeFields, decodeGroupE, ho, hnn]
  · simp [decodeFields, decodeGroupE, ho, hnn]
  · simp only [← State.keyPressed_iff]
    exact ⟨⟨_, exec_skp x s, frame_setPc .., fun hp => if_pos hp, fun hp => if_neg hp⟩,
      ⟨_, exec_sknp x s, frame_setPc .., fun hp => if_pos hp, fun hp => if_neg hp⟩⟩

/-- Settles O42: each instruction is one write, of a register or of a timer. -/
theorem timerRegisterTransfers : Obligations.TimerRegisterTransfers := by
  refine ⟨encodes_of_opcode_nn 0xF 0x07 fun f ho hnn => ?_, encodes_of_opcode_nn 0xF 0x15 fun f ho hnn => ?_,
    encodes_of_opcode_nn 0xF 0x18 fun f ho hnn => ?_, fun x s => ⟨?_, ?_, ?_⟩⟩
  · simp [decodeFields, decodeGroupF, ho, hnn]
  · simp [decodeFields, decodeGroupF, ho, hnn]
  · simp [decodeFields, decodeGroupF, ho, hnn]
  · exact ⟨_, exec_ldVxDt x s, s.getV_setV_self x _, frame_setV ..⟩
  · exact ⟨_, exec_ldDtVx x s, s.setDt_dt _, frame_setDt ..⟩
  · exact ⟨_, exec_ldStVx x s, s.setSt_st _, rfl, frame_setSt ..⟩

end Sys2Proof.Machine

/-! PROOFS. The statements of 48_disassembler.md (R95-R98, R100). -/

namespace Sys2Proof.Machine

/-! ## The walk over the buffer (R95) -/

/-- The line of the word `w` at the address `a`. -/
def lineOf (a : Nat) (w : Word) : Line where
  address  := a
  mnemonic := (textOfWord w).1
  operands := (textOfWord w).2

theorem disassembleFrom_cons_cons (a : Nat) (hi lo : Byte) (rest : List Byte) :
    disassembleFrom a (hi :: lo :: rest) = lineOf a (hi ++ lo) :: disassembleFrom (a + 2) rest := rfl

theorem length_disassembleFrom : ∀ (a : Nat) (buf : List Byte), (disassembleFrom a buf).length = buf.length / 2
  | _, [] => rfl
  | _, [_] => by simp [disassembleFrom]
  | a, hi :: lo :: rest => by
    rw [disassembleFrom_cons_cons, List.length_cons, length_disassembleFrom, List.length_cons, List.length_cons,
      Nat.add_assoc, Nat.add_div_right _ Nat.two_pos]

theorem getElem?_disassembleFrom : ∀ (a : Nat) (buf : List Byte) (k : Nat), k < buf.length / 2 →
    (disassembleFrom a buf)[k]? = some (lineOf (a + 2 * k) (buf.getD (2 * k) 0 ++ buf.getD (2 * k + 1) 0))
  | _, [], _, hk => absurd hk (Nat.not_lt_zero _)
  | _, [_], _, hk => absurd hk (by simp)
  | _, _ :: _ :: _, 0, _ => rfl
  | a, hi :: lo :: rest, k + 1, hk => by
    have hrest : k < rest.length / 2 := by
      simp only [List.length_cons] at hk
      omega
    have haddress : a + 2 * (k + 1) = a + 2 + 2 * k := by omega
    rw [disassembleFrom_cons_cons, List.getElem?_cons_succ, getElem?_disassembleFrom (a + 2) rest k hrest, haddress]
    rfl

/-- Settles O57: the number of lines, and each of them, of the walk that starts at address 0. -/
theorem disassembleWalksWords : Obligations.DisassembleWalksWords := by
  refine fun buf => ⟨length_disassembleFrom 0 buf, fun k hk => ?_⟩
  have hline := getElem?_disassembleFrom 0 buf k hk
  rwa [Nat.zero_add] at hline

/-- Settles O60: the walk of one word, evaluated. -/
theorem disassembleExample : Obligations.DisassembleExample := by
  unfold Obligations.DisassembleExample
  rfl

/-! ## The hexadecimal digits (R96) -/

/-- The upper-case hexadecimal digit of `k` modulo 16. -/
def upperHexDigit (k : Nat) : Char := "0123456789ABCDEF".toList.getD (k % 16) ' '

theorem hexDigit_eq_upperHexDigit (d : Nibble) : hexDigit d = upperHexDigit d.toNat := by
  revert d
  decide

theorem hexDigit_extractLsb' {width : Nat} (v : BitVec width) (start : Nat) :
    hexDigit (v.extractLsb' start 4) = upperHexDigit (v.toNat / 2 ^ start) := by
  have hmod : v.toNat / 2 ^ start % 2 ^ 4 % 16 = v.toNat / 2 ^ start % 16 := Nat.mod_mod _ 16
  rw [hexDigit_eq_upperHexDigit, toNat_extractLsb'_eq_div_mod, upperHexDigit, hmod, upperHexDigit]

theorem textA_eq (v : Addr) : textA v =
    String.ofList ['$', upperHexDigit (v.toNat / 256), upperHexDigit (v.toNat / 16), upperHexDigit v.toNat] := by
  simp only [textA, hexDigit_extractLsb', Nat.reducePow, Nat.div_one]

theorem textB_eq (v : Byte) : textB v = String.ofList ['$', upperHexDigit (v.toNat / 16), upperHexDigit v.toNat] := by
  simp only [textB, hexDigit_extractLsb', Nat.reducePow, Nat.div_one]

theorem textN_eq (v : Nibble) : textN v = String.ofList ['$', upperHexDigit v.toNat] := by
  rw [textN, hexDigit_eq_upperHexDigit]

theorem textR_eq (x : Reg) : textR x = String.ofList ['V', upperHexDigit x.val] := by
  rw [textR, hexDigit_eq_upperHexDigit]
  rfl

theorem textW_eq (w : Word) : textW w =
    String.ofList ['$', upperHexDigit (w.toNat / 4096), upperHexDigit (w.toNat / 256), upperHexDigit (w.toNat / 16),
      upperHexDigit w.toNat] := by
  simp only [textW, hexDigit_extractLsb', Nat.reducePow, Nat.div_one]

/-! ## The opcode map as a whole: what the words of each row decode to (R48) -/

/-- What each row of the opcode map makes of the fields of a word, in the map's order. -/
def opcodeMakers : List (Fields → Instr) :=
  [fun f => .cls f.x, fun f => .ret f.x, fun f => .jp f.nnn, fun f => .call f.nnn, fun f => .seImm f.x.toFin f.nn,
    fun f => .sneImm f.x.toFin f.nn, fun f => .seReg f.x.toFin f.y.toFin f.n, fun f => .ldImm f.x.toFin f.nn,
    fun f => .addImm f.x.toFin f.nn,
    fun f => .ldReg f.x.toFin f.y.toFin, fun f => .orReg f.x.toFin f.y.toFin, fun f => .andReg f.x.toFin f.y.toFin,
    fun f => .xorReg f.x.toFin f.y.toFin, fun f => .addReg f.x.toFin f.y.toFin, fun f => .subReg f.x.toFin f.y.toFin,
    fun f => .shrReg f.x.toFin f.y.toFin, fun f => .subnReg f.x.toFin f.y.toFin, fun f => .shlReg f.x.toFin f.y.toFin,
    fun f => .sneReg f.x.toFin f.y.toFin f.n, fun f => .ldI f.nnn, fun f => .jpV0 f.nnn, fun f => .rnd f.x.toFin f.nn,
    fun f => .drw f.x.toFin f.y.toFin f.n,
    fun f => .skp f.x.toFin, fun f => .sknp f.x.toFin, fun f => .ldVxDt f.x.toFin, fun f => .ldVxK f.x.toFin,
    fun f => .ldDtVx f.x.toFin, fun f => .ldStVx f.x.toFin, fun f => .addIVx f.x.toFin, fun f => .ldFVx f.x.toFin,
    fun f => .ldBVx f.x.toFin, fun f => .ldMemVx f.x.toFin, fun f => .ldVxMem f.x.toFin]

theorem encodes_rnd : Encodes 0xF000 0xC000 (fun f => .rnd f.x.toFin f.nn) :=
  encodes_of_opcode 0xC fun f ho => by simp [decodeFields, ho]

/-- The settled statements about the instructions say so of one row or a few each; together they cover the map. -/
theorem opcodeMap_encodes : List.Forall₂ (fun row mk => Encodes row.1 row.2 mk) opcodeMap opcodeMakers := by
  obtain ⟨hjp, hjpV0, -⟩ := jumpsSetPc
  obtain ⟨hcall, -⟩ := callPushesReturnAddress
  obtain ⟨hret, -⟩ := returnPopsAddress
  obtain ⟨hseImm, hsneImm, -⟩ := skipsOnImmediate
  obtain ⟨hseReg, hsneReg, -⟩ := skipsOnRegisters
  obtain ⟨hldImm, haddImm, hldReg, -⟩ := loadsAndImmediateAdd
  obtain ⟨hor, hand, hxor, -⟩ := bitwiseOperations
  obtain ⟨haddReg, -⟩ := addSetsCarry
  obtain ⟨hsub, hsubn, -⟩ := subtractSetsGreater
  obtain ⟨hshr, hshl, -⟩ := shiftsSetShiftedBit
  obtain ⟨hldI, haddI, hldF, -⟩ := indexRegisterWrites
  obtain ⟨hldB, -⟩ := decimalDigitsStored
  obtain ⟨hstore, -⟩ := registersStored
  obtain ⟨hload, -⟩ := registersLoaded
  obtain ⟨hcls, -⟩ := clearDisplayClears
  obtain ⟨hdrw, -⟩ := drawFollowsLoops
  obtain ⟨hskp, hsknp, -⟩ := skipsOnKeys
  obtain ⟨hkey, -⟩ := waitForKey
  obtain ⟨hgetDt, hsetDt, hsetSt, -⟩ := timerRegisterTransfers
  simp only [opcodeMap, opcodeMakers, List.cons_append, List.nil_append, List.forall₂_cons, List.Forall₂.nil, and_true]
  exact ⟨hcls, hret, hjp, hcall, hseImm, hsneImm, hseReg, hldImm, haddImm, hldReg, hor, hand, hxor, haddReg, hsub, hshr,
    hsubn, hshl, hsneReg, hldI, hjpV0, encodes_rnd, hdrw, hskp, hsknp, hgetDt, hkey, hsetDt, hsetSt, haddI, hldF, hldB,
    hstore, hload⟩

/-- A word of the row decodes to an instruction. -/
def RowDecodes (row : Word × Word) : Prop := ∀ w : Word, matchesRow w row = true → ∃ i, decode w = .instr i

theorem Encodes.rowDecodes {row : Word × Word} {mk : Fields → Instr} (h : Encodes row.1 row.2 mk) : RowDecodes row :=
  fun w hw => ⟨_, h w (beq_iff_eq.1 hw)⟩

theorem rowDecodes_of_mem_opcodeMap : ∀ row ∈ opcodeMap, RowDecodes row :=
  ((List.forall₂_and_left _ _).1 (opcodeMap_encodes.imp fun _ _ h => ⟨h.rowDecodes, h⟩)).1

/-! ## The text of a word is that of what it decodes to (R97, R98) -/

theorem textOfWord_of_instr {w : Word} {i : Instr} (h : decode w = .instr i) : textOfWord w = textOf i := by
  rw [textOfWord, h]

theorem textOfWord_of_undefined {w : Word} {g : UndefinedGroup} (h : decode w = .undefined g) :
    textOfWord w = ("UNKNOWN", [textW w]) := by
  rw [textOfWord, h]

theorem textOf_mnemonic_ne_unknown (i : Instr) : (textOf i).1 ≠ "UNKNOWN" := by
  cases i <;> exact of_decide_eq_true rfl

/-- Settles O58: a word of no row is undefined, a word of a row decodes to an instruction, and no instruction has the marker's name. -/
theorem unknownMarksUndefinedWords : Obligations.UnknownMarksUndefinedWords := by
  refine ⟨fun w hno => ?_, fun w ⟨row, hrow, hmatch⟩ => ?_, rfl, rfl, rfl⟩
  · obtain ⟨g, hg⟩ := decode_undefined_of_no_row hno
    exact textOfWord_of_undefined hg
  · obtain ⟨i, hi⟩ := rowDecodes_of_mem_opcodeMap row hrow w hmatch
    rw [textOfWord_of_instr hi]
    exact textOf_mnemonic_ne_unknown i

theorem Encodes.texts {mask value : Word} {mk : Fields → Instr} (h : Encodes mask value mk) :
    Texts mask value (fun f => textOf (mk f)) := fun w hw => textOfWord_of_instr (h w hw)

/-- Settles O59: the digits one text at a time, and each row's text from the instruction that its words decode to. -/
theorem textFollowsTable : Obligations.TextFollowsTable := by
  refine ⟨⟨textA_eq, textB_eq, textN_eq, textR_eq, textW_eq⟩, ?_⟩
  have hrows : List.Forall₂ (fun row mk => Texts row.1 row.2 fun f => textOf (mk f)) opcodeMap opcodeMakers :=
    opcodeMap_encodes.imp fun _ _ h => h.texts
  simp only [opcodeMap, opcodeMakers, List.cons_append, List.nil_append, List.forall₂_cons, List.Forall₂.nil,
    and_true] at hrows
  exact hrows

end Sys2Proof.Machine

/-! PROOFS. The statements of 60_exceptions.md about stack faults, timers, the beep and key events (R102-R104, R109-R113). -/

namespace Sys2Proof.Machine

/-! ## The word that a stack fault records is the fetched one (R104) -/

/-- The row fixes the opcode, so that the word decodes to the call of its own `nnn` and to no other. -/
theorem encode_call_of_decode {w : Word} {nnn : Addr} (hd : decode w = .instr (.call nnn)) : encode (.call nnn) = w := by
  have hrow : w &&& 0xF000 = formatXNN 0x2#4 0 0 := and_rowMask_of_decode hd
  have hfields : decode w = .instr (.call (fieldsOf w).nnn) := callPushesReturnAddress.1 w hrow
  obtain rfl : nnn = (fieldsOf w).nnn := by simpa [hd] using hfields
  calc encode (.call (fieldsOf w).nnn) = formatA (fieldsOf w).opcode (fieldsOf w).nnn := by
        rw [opcode_of_mask_F000 hrow, encode]
    _ = w := formatA_fieldsOf w

/-- The row fixes the opcode and the low byte, so that the word decodes to the return with its own ignored bits. -/
theorem encode_ret_of_decode {w : Word} {u : Nibble} (hd : decode w = .instr (.ret u)) : encode (.ret u) = w := by
  have hrow : w &&& 0xF0FF = formatXNN 0x0#4 0 0xEE#8 := and_rowMask_of_decode hd
  obtain ⟨ho, hnn⟩ := opcode_nn_of_mask_F0FF hrow
  have hfields : decode w = .instr (.ret (fieldsOf w).x) := returnPopsAddress.1 w hrow
  obtain rfl : u = (fieldsOf w).x := by simpa [hd] using hfields
  calc encode (.ret (fieldsOf w).x) = formatXNN (fieldsOf w).opcode (fieldsOf w).x (fieldsOf w).nn := by
        rw [ho, hnn, encode]
    _ = w := formatXNN_fieldsOf w

/-- The fault's `pc - 2` undoes the advance of the fetch, so that only the cleared should_redraw remains of the handler's entry. -/
theorem State.raise_handlerEntry (s : State) (cause : Fault) (w : Word) :
    s.handlerEntry.raise cause w =
      { s with shouldRedraw := false, fault := some { cause := cause, pc := s.pc, word := w } } := by
  rw [State.raise_of_fetched s.handlerEntry_pc]
  rfl

/-- Settles O20: each handler raises its fault at the fetch address, with the word of the decoded instruction. -/
theorem stackFaultEntryIsPrecise : Obligations.StackFaultEntryIsPrecise := by
  intro s hf
  refine ⟨fun nnn hd hfull => ?_, fun u hd hempty => ?_⟩
  · calc State.transact .cycle s = exec (.call nnn) s.handlerEntry := State.cycle_of_instr hf hd
      _ = .next (s.handlerEntry.raise .stackOverflow (encode (.call nnn))) := exec_call_of_full nnn hfull
      _ = _ := by rw [encode_call_of_decode hd, State.raise_handlerEntry]
  · calc State.transact .cycle s = exec (.ret u) s.handlerEntry := State.cycle_of_instr hf hd
      _ = .next (s.handlerEntry.raise .stackUnderflow (encode (.ret u))) := exec_ret_of_empty u hempty
      _ = _ := by rw [encode_ret_of_decode hd, State.raise_handlerEntry]

/-! ## Ticks (R109) -/

/-- Subtraction of natural numbers stops at 0, as the counter does (R20). -/
theorem countDown_toNat (b : Byte) : (countDown b).toNat = b.toNat - 1 := by
  unfold countDown
  split
  case isTrue hpos => bv_omega
  case isFalse hzero => omega

theorem State.tick_of_running {s : State} (h : s.timerRunning = true) :
    s.tick = (s.setDt (countDown s.dt)).setSt (countDown s.st) := if_pos h

theorem State.tick_of_stopped {s : State} (h : s.timerRunning = false) : s.tick = s :=
  if_neg (Bool.eq_false_iff.1 h)

theorem frame_setDt_setSt (s : State) (d t : Byte) : Frame { delay := true, sound := true } s ((s.setDt d).setSt t) := by
  constructor <;> simp

/-- Settles O43: a tick writes both timers while they run, and is the identity while they are stopped. -/
theorem tickCountsDown : Obligations.TickCountsDown := by
  intro s
  refine ⟨fun hrun => ?_, fun hstop => ?_⟩
  · exact ⟨_, congrArg Host.Outcome.next (State.tick_of_running hrun), countDown_toNat s.dt, countDown_toNat s.st,
      frame_setDt_setSt ..⟩
  · exact congrArg Host.Outcome.next (State.tick_of_stopped hstop)

/-! ## Timer start and stop, the beep (R110, R112) -/

/-- Settles O44: each transaction is one record update. -/
theorem timerStartStop : Obligations.TimerStartStop := fun s program =>
  ⟨rfl, rfl, s.loadProgram program, rfl, rfl⟩

theorem State.shouldBeep_iff (s : State) : s.shouldBeep = true ↔ s.st.toNat ≠ 0 := by
  rw [State.shouldBeep, bne_iff_ne, ← BitVec.toNat_ne_iff_ne]
  rfl

/-- Settles O45: the output is the query ShouldBeep. -/
theorem shouldBeepWhileSounding : Obligations.ShouldBeepWhileSounding := State.shouldBeep_iff

/-! ## Key events (R113) -/

theorem State.held_keyDown (s : State) (k j : Key) : (s.keyDown k).held j = (decide (j = k) || s.held j) := by
  rw [State.keyDown, State.held_setKey]
  by_cases hj : j = k <;> simp [hj]

theorem State.held_keyUp (s : State) (k j : Key) : (s.keyUp k).held j = (!decide (j = k) && s.held j) := by
  rw [State.keyUp, State.held_setKey]
  by_cases hj : j = k <;> simp [hj]

/-- Settles O46: a key event is one write of the key set, which LoadProgram does not write. -/
theorem keyEventsUpdateSet : Obligations.KeyEventsUpdateSet := fun k s program =>
  ⟨⟨(s.keyDown k).keys, rfl, s.held_keyDown k⟩, ⟨(s.keyUp k).keys, rfl, s.held_keyUp k⟩,
    s.loadProgram program, rfl, fun _ => rfl⟩

end Sys2Proof.Machine

/-! PROOFS. The statements of 70_reset_and_hazards.md about power-on (R119) and LoadProgram (R120). -/

namespace Sys2Proof.Machine

/-! ## The parts that both resets clear -/

/-- An address inside the address space is its own cell (R12). -/
theorem State.readMem_of_lt (s : State) {a : Nat} (h : a < memSize) : s.readMem a = s.mem.lookup a := by
  rw [State.readMem, Memory.read, Nat.mod_eq_of_lt h]

theorem State.getV_of_v_zero {s : State} (h : s.v = Vector.replicate 16 0) (r : Reg) : s.getV r = 0 := by
  simp [State.getV, h]

theorem State.held_of_keys_empty {s : State} (h : s.keys = Vector.replicate 16 false) (k : Key) : s.held k = false := by
  simp [State.held, h]

/-- Both resets hold the display that `clearDisplay` leaves. -/
theorem State.pixel_of_disp_clear {s : State} (h : s.disp = s.clearDisplay.disp) (c : Col) (r : Row) :
    s.pixel c r = false := by
  rw [State.pixel, h]
  exact s.pixel_clearDisplay c r

/-! ## LoadProgram's memory (R120) -/

theorem State.readMem_loadProgram_low (s : State) (program : List Byte) {a : Nat} (h : a < progBase) :
    (s.loadProgram program).readMem a = s.readMem a := by
  have ha : a < memSize := h.trans (by decide)
  calc (s.loadProgram program).readMem a = (s.mem.load program).lookup a := State.readMem_of_lt _ ha
    _ = s.mem.lookup a := by rw [Memory.lookup_load, if_pos h]
    _ = s.readMem a := (s.readMem_of_lt ha).symm

/-- Of the writable region: past the end of the program `getD` gives the zeros, and the cut at 0xE00 is the region's end. -/
theorem State.readMem_loadProgram_high (s : State) (program : List Byte) {k : Nat} (h : k < progMaxLen) :
    (s.loadProgram program).readMem (progBase + k) = program.getD k 0 := by
  have ha : progBase + k < memSize := Nat.add_lt_add_left h progBase
  calc (s.loadProgram program).readMem (progBase + k) = (s.mem.load program).lookup (progBase + k) :=
        State.readMem_of_lt _ ha
    _ = (program.take progMaxLen).getD k 0 := by
        rw [Memory.lookup_load, if_neg (Nat.le_add_right progBase k).not_gt, Nat.add_sub_cancel_left]
    _ = program.getD k 0 := by
        rw [List.getD_eq_getElem?_getD, List.getElem?_take_of_lt h, List.getD_eq_getElem?_getD]

/-- Settles O48: memory by its three ranges; every other part is a field that LoadProgram writes, or the key set, which it keeps. -/
theorem loadProgramResets : Obligations.LoadProgramResets := by
  intro program s
  refine ⟨s.loadProgram program, rfl, fun _ ha => s.readMem_loadProgram_low program ha, fun k hk => ?copied,
    fun k hlen hk => ?cleared, State.pixel_of_disp_clear rfl, rfl, State.getV_of_v_zero rfl, rfl, rfl, rfl, rfl, rfl, rfl, rfl,
    fun _ => rfl⟩
  case copied => exact s.readMem_loadProgram_high program (lt_min_iff.1 hk).2
  case cleared =>
    have hend : program.length ≤ k := (min_le_iff.1 hlen).resolve_right hk.not_ge
    exact (s.readMem_loadProgram_high program hk).trans (List.getD_eq_default _ _ hend)

/-! ## Power-on (R119) -/

theorem State.readMem_powerOn_font (p : Params) (font : Vector Byte 80) {a : Nat} (hlo : fontBase ≤ a)
    (hhi : a < fontBase + 80) : (State.powerOn p font).readMem a = font.toList.getD (a - fontBase) 0 := by
  have ha : a < memSize := hhi.trans (by decide)
  calc (State.powerOn p font).readMem a = (Memory.cellsFrom fontBase font.toList).lookup a := State.readMem_of_lt _ ha
    _ = font.toList.getD (a - fontBase) 0 := by
        rw [Memory.lookup_cellsFrom, Vector.length_toList, if_pos ⟨hlo, hhi⟩]

theorem powerOnByte_of_outside_font {a : Nat} (h : a < fontBase ∨ fontBase + 80 ≤ a) : powerOnByte a = 0 := by
  rcases h with hlo | hhi
  · exact if_pos hlo
  · have hlen : fontRom.length ≤ a - fontBase := Nat.le_sub_of_add_le' hhi
    rw [powerOnByte, if_neg (by omega), List.getD_eq_default _ _ hlen]

theorem State.readMem_powerOn_outside_font (p : Params) (font : Vector Byte 80) {a : Nat} (ha : a < memSize)
    (h : a < fontBase ∨ fontBase + 80 ≤ a) : (State.powerOn p font).readMem a = 0 := by
  calc (State.powerOn p font).readMem a = (Memory.cellsFrom fontBase font.toList).lookup a := State.readMem_of_lt _ ha
    _ = powerOnByte a := by rw [Memory.lookup_cellsFrom, Vector.length_toList, if_neg (by omega)]
    _ = 0 := powerOnByte_of_outside_font h

/-- With FONT_ROM as the font no cell differs from its power-on contents, so that memory lists nothing (R33). -/
theorem State.powerOn_default : State.powerOn Params.default ⟨fontRom.toArray, rfl⟩ = State.reset := rfl

/-- Settles O47: the font's cells and the others are those of `cellsFrom`, and `State.reset` is the power-on with FONT_ROM. -/
theorem powerOnValues : Obligations.PowerOnValues := by
  unfold Obligations.PowerOnValues
  intro values
  have hpowerOn : ∀ (p : Params) (font : Vector Byte 80), values font.toList (State.powerOn p font) := fun p font =>
    ⟨fun _ hlo hhi => State.readMem_powerOn_font p font hlo (Nat.lt_succ_of_le hhi),
      fun _ ha hout => State.readMem_powerOn_outside_font p font ha hout, State.getV_of_v_zero rfl, rfl, rfl, rfl, rfl, rfl,
      rfl, State.pixel_of_disp_clear rfl, rfl, State.held_of_keys_empty rfl, rfl⟩
  exact ⟨hpowerOn, State.powerOn_default ▸ hpowerOn Params.default ⟨fontRom.toArray, rfl⟩⟩

end Sys2Proof.Machine

/-! PROOFS. The statements of 30_encoding.md about the decoder and the encoder (R46-R49). -/

namespace Sys2Proof

/-! ## Decoding what was encoded -/

/-- The opcode selects the constructor, or the group in which the subcode selects it. -/
theorem decode_encode (i : Instr) : decode (encode i) = .instr i := by
  cases i with
  | cls | ret => simp [encode, decode, decodeFields, decodeGroup0, fieldsOf_formatXNN]
  | ldReg | orReg | andReg | xorReg | addReg | subReg | shrReg | subnReg | shlReg =>
    simp [encode, decode, decodeFields, decodeGroup8, fieldsOf_formatXYN]
  | skp | sknp => simp [encode, decode, decodeFields, decodeGroupE, fieldsOf_formatXNN]
  | ldVxDt | ldVxK | ldDtVx | ldStVx | addIVx | ldFVx | ldBVx | ldMemVx | ldVxMem =>
    simp [encode, decode, decodeFields, decodeGroupF, fieldsOf_formatXNN]
  | jp | call | ldI | jpV0 => simp [encode, decode, decodeFields, fieldsOf_formatA]
  | seImm | sneImm | ldImm | addImm | rnd => simp [encode, decode, decodeFields, fieldsOf_formatXNN]
  | seReg | sneReg | drw => simp [encode, decode, decodeFields, fieldsOf_formatXYN]

theorem decodeBytes_of_instr {hi lo : Byte} {i : Instr} (h : decode (wordOfBytes hi lo) = .instr i) (rest : List Byte) :
    decodeBytes (hi :: lo :: rest) = .instr i rest := by
  rw [decodeBytes, h]

/-- Settles O1: the word decodes to the instruction, and its two bytes make the word again. -/
theorem decodeInvertsEncode : Obligations.DecodeInvertsEncode := by
  intro i
  refine ⟨decode_encode i, fun rest => decodeBytes_of_instr ?_ rest⟩
  rw [wordOfBytes_bytesOfWord, decode_encode]

/-! ## Encoding what was decoded -/

theorem formatXNN_of_fields {w : Word} {o : Nibble} {nn : Byte} (ho : (fieldsOf w).opcode = o) (hnn : (fieldsOf w).nn = nn) :
    formatXNN o (fieldsOf w).x nn = w := by
  rw [← ho, ← hnn, formatXNN_fieldsOf]

theorem formatA_of_opcode {w : Word} {o : Nibble} (ho : (fieldsOf w).opcode = o) : formatA o (fieldsOf w).nnn = w := by
  rw [← ho, formatA_fieldsOf]

theorem formatXYN_of_fields {w : Word} {o n : Nibble} (ho : (fieldsOf w).opcode = o) (hn : (fieldsOf w).n = n) :
    formatXYN o (fieldsOf w).x (fieldsOf w).y n = w := by
  rw [← ho, ← hn, formatXYN_fieldsOf]

theorem encode_of_decodeGroup0 {w : Word} {i : Instr} (ho : (fieldsOf w).opcode = 0x0#4)
    (h : decodeGroup0 (fieldsOf w) = .instr i) : encode i = w := by
  unfold decodeGroup0 at h
  split_ifs at h <;> cases h <;> exact formatXNN_of_fields ho ‹_›

theorem encode_of_decodeGroup8 {w : Word} {i : Instr} (ho : (fieldsOf w).opcode = 0x8#4)
    (h : decodeGroup8 (fieldsOf w) = .instr i) : encode i = w := by
  unfold decodeGroup8 at h
  split_ifs at h <;> cases h <;> exact formatXYN_of_fields ho ‹_›

theorem encode_of_decodeGroupE {w : Word} {i : Instr} (ho : (fieldsOf w).opcode = 0xE#4)
    (h : decodeGroupE (fieldsOf w) = .instr i) : encode i = w := by
  unfold decodeGroupE at h
  split_ifs at h <;> cases h <;> exact formatXNN_of_fields ho ‹_›

theorem encode_of_decodeGroupF {w : Word} {i : Instr} (ho : (fieldsOf w).opcode = 0xF#4)
    (h : decodeGroupF (fieldsOf w) = .instr i) : encode i = w := by
  unfold decodeGroupF at h
  split_ifs at h <;> cases h <;> exact formatXNN_of_fields ho ‹_›

/-- Each of the twelve opcodes that decide the row alone comes with the format of its row; the opcode left over is 0xF. -/
theorem encode_of_decode {w : Word} {i : Instr} (h : decode w = .instr i) : encode i = w := by
  unfold decode decodeFields at h
  obtain ⟨ho, h⟩ | ⟨_, h⟩ := ite_eq_iff.1 h
  · exact encode_of_decodeGroup0 ho h
  iterate 2
    obtain ⟨ho, h⟩ | ⟨_, h⟩ := ite_eq_iff.1 h
    · cases h; exact formatA_of_opcode ho
  iterate 2
    obtain ⟨ho, h⟩ | ⟨_, h⟩ := ite_eq_iff.1 h
    · cases h; exact formatXNN_of_fields ho rfl
  obtain ⟨ho, h⟩ | ⟨_, h⟩ := ite_eq_iff.1 h
  · cases h; exact formatXYN_of_fields ho rfl
  iterate 2
    obtain ⟨ho, h⟩ | ⟨_, h⟩ := ite_eq_iff.1 h
    · cases h; exact formatXNN_of_fields ho rfl
  obtain ⟨ho, h⟩ | ⟨_, h⟩ := ite_eq_iff.1 h
  · exact encode_of_decodeGroup8 ho h
  obtain ⟨ho, h⟩ | ⟨_, h⟩ := ite_eq_iff.1 h
  · cases h; exact formatXYN_of_fields ho rfl
  iterate 2
    obtain ⟨ho, h⟩ | ⟨_, h⟩ := ite_eq_iff.1 h
    · cases h; exact formatA_of_opcode ho
  obtain ⟨ho, h⟩ | ⟨_, h⟩ := ite_eq_iff.1 h
  · cases h; exact formatXNN_of_fields ho rfl
  obtain ⟨ho, h⟩ | ⟨_, h⟩ := ite_eq_iff.1 h
  · cases h; exact formatXYN_of_fields ho rfl
  obtain ⟨ho, h⟩ | ⟨_, h⟩ := ite_eq_iff.1 h
  · exact encode_of_decodeGroupE ho h
  · exact encode_of_decodeGroupF (by bv_omega) h

/-- Settles O2: each leaf of the decoder keeps every bit of the word. -/
theorem encodeInvertsDecode : Obligations.EncodeInvertsDecode := fun _ _ => encode_of_decode

/-! ## The rows of the opcode map (R48) -/

/-- Two rows differ on a bit of both masks. -/
theorem opcodeMap_pairwise : opcodeMap.Pairwise (fun row row' => row.2 &&& row'.1 ≠ row'.2 &&& row.1) := by
  decide

theorem not_matchesRow_both {w : Word} {row row' : Word × Word} (hne : row.2 &&& row'.1 ≠ row'.2 &&& row.1) :
    ¬ (matchesRow w row = true ∧ matchesRow w row' = true) := by
  rintro ⟨h, h'⟩
  have hand : w &&& row.1 &&& row'.1 = w &&& row'.1 &&& row.1 := by
    rw [BitVec.and_assoc, BitVec.and_comm row.1, BitVec.and_assoc]
  rw [beq_iff_eq.1 h, beq_iff_eq.1 h'] at hand
  exact hne hand

theorem length_filter_matchesRow_le_one (w : Word) : (opcodeMap.filter (matchesRow w)).length ≤ 1 := by
  have hpairs := opcodeMap_pairwise.filter (matchesRow w)
  have hmatch : ∀ row ∈ opcodeMap.filter (matchesRow w), matchesRow w row = true := fun _ h => (List.mem_filter.1 h).2
  match opcodeMap.filter (matchesRow w), hpairs, hmatch with
  | [], _, _ | [_], _, _ => simp
  | row :: row' :: _, hpairs, hmatch =>
    have hne := List.rel_of_pairwise_cons hpairs List.mem_cons_self
    exact absurd ⟨hmatch row (by simp), hmatch row' (by simp)⟩ (not_matchesRow_both hne)

/-- Settles O4: the decoder keeps to the rows, every row decodes, and no word is of two rows. -/
theorem decodeFollowsOpcodeMap : Obligations.DecodeFollowsOpcodeMap := by
  intro w
  have hrow : ∀ i, decode w = .instr i →
      (rowMask i, rowMatch i) ∈ opcodeMap ∧ matchesRow w (rowMask i, rowMatch i) = true := fun i hd =>
    ⟨row_mem_opcodeMap i, beq_iff_eq.2 (and_rowMask_of_decode hd)⟩
  have hdecodes : (∃ row ∈ opcodeMap, matchesRow w row = true) → ∃ i, decode w = .instr i :=
    fun ⟨row, hmem, hmatch⟩ => Machine.rowDecodes_of_mem_opcodeMap row hmem w hmatch
  exact ⟨⟨fun ⟨i, hd⟩ => ⟨_, hrow i hd⟩, hdecodes⟩, length_filter_matchesRow_le_one w, hrow⟩

/-! ## The groups with undefined words (R49) -/

/-- Only the four groups answer an undefined word. -/
theorem decodeFields_eq_undefined_iff (f : Fields) (g : UndefinedGroup) :
    decodeFields f = .undefined g ↔
      f.opcode = 0x0#4 ∧ decodeGroup0 f = .undefined g ∨ f.opcode = 0x8#4 ∧ decodeGroup8 f = .undefined g ∨
        f.opcode = 0xE#4 ∧ decodeGroupE f = .undefined g ∨ f.opcode = 0xF#4 ∧ decodeGroupF f = .undefined g := by
  constructor
  · intro h
    unfold decodeFields at h
    obtain ⟨ho, h⟩ | ⟨_, h⟩ := ite_eq_iff.1 h
    · exact .inl ⟨ho, h⟩
    iterate 7
      obtain ⟨_, h⟩ | ⟨_, h⟩ := ite_eq_iff.1 h
      · cases h
    obtain ⟨ho, h⟩ | ⟨_, h⟩ := ite_eq_iff.1 h
    · exact .inr (.inl ⟨ho, h⟩)
    iterate 5
      obtain ⟨_, h⟩ | ⟨_, h⟩ := ite_eq_iff.1 h
      · cases h
    obtain ⟨ho, h⟩ | ⟨_, h⟩ := ite_eq_iff.1 h
    · exact .inr (.inr (.inl ⟨ho, h⟩))
    · exact .inr (.inr (.inr ⟨by bv_omega, h⟩))
  · rintro (⟨ho, h⟩ | ⟨ho, h⟩ | ⟨ho, h⟩ | ⟨ho, h⟩) <;> simpa [decodeFields, ho] using h

/-! ## What the dispatch of each group leaves over: the subcodes that it does not list -/

theorem decodeGroup0_eq_undefined_iff (f : Fields) (g : UndefinedGroup) :
    decodeGroup0 f = .undefined g ↔ f.nn.toNat ∉ [0xE0, 0xEE] ∧ .group0 = g := by
  simp [decodeGroup0, ite_eq_iff, ← BitVec.toNat_inj, and_assoc]

/-- R49 lists the low nibbles of group 8's undefined words, R47 those of its instructions. -/
theorem not_mem_group8_iff {n : Nat} (hn : n < 16) :
    n ∉ [0x0, 0x1, 0x2, 0x3, 0x4, 0x5, 0x6, 0x7, 0xE] ↔ n ∈ [0x8, 0x9, 0xA, 0xB, 0xC, 0xD, 0xF] := by
  interval_cases n <;> decide

theorem decodeGroup8_eq_undefined_iff (f : Fields) (g : UndefinedGroup) :
    decodeGroup8 f = .undefined g ↔ f.n.toNat ∈ [0x8, 0x9, 0xA, 0xB, 0xC, 0xD, 0xF] ∧ .group8 = g := by
  rw [← not_mem_group8_iff f.n.isLt]
  simp [decodeGroup8, ite_eq_iff, ← BitVec.toNat_inj, and_assoc]

theorem decodeGroupE_eq_undefined_iff (f : Fields) (g : UndefinedGroup) :
    decodeGroupE f = .undefined g ↔ f.nn.toNat ∉ [0x9E, 0xA1] ∧ .groupE = g := by
  simp [decodeGroupE, ite_eq_iff, ← BitVec.toNat_inj, and_assoc]

theorem decodeGroupF_eq_undefined_iff (f : Fields) (g : UndefinedGroup) :
    decodeGroupF f = .undefined g ↔
      f.nn.toNat ∉ [0x07, 0x0A, 0x15, 0x18, 0x1E, 0x29, 0x33, 0x55, 0x65] ∧ .groupF = g := by
  simp [decodeGroupF, ite_eq_iff, ← BitVec.toNat_inj, and_assoc]

theorem opcode_eq_iff (w : Word) (o : Nibble) : (fieldsOf w).opcode = o ↔ w.toNat / 4096 = o.toNat := by
  rw [← BitVec.toNat_inj, fieldsOf_opcode_toNat]

/-- Settles O5: the undefined words of a group are those of its opcode that the group's dispatch leaves over. -/
theorem undefinedWordsByGroup : Obligations.UndefinedWordsByGroup := by
  intro w
  simp [decode, decodeFields_eq_undefined_iff, decodeGroup0_eq_undefined_iff, decodeGroup8_eq_undefined_iff,
    decodeGroupE_eq_undefined_iff, decodeGroupF_eq_undefined_iff, opcode_eq_iff]

/-! ## The spec's own examples -/

/-- Settles O6: the decoder, evaluated on each word. -/
theorem sampleWordsDecode : Obligations.SampleWordsDecode := by
  unfold Obligations.SampleWordsDecode
  decide

end Sys2Proof

/-! PROOFS. What every instruction may touch (10_state.md, section 10), for the statements about the whole machine. -/

namespace Sys2Proof.Machine

/-! ## Frames of the updates that several instructions share -/

theorem Frame.setPc {f : Touches} {s t : State} (h : Frame f s t) (hf : f.pc = true) (w : Word) :
    Frame f s (t.setPc w) :=
  { h with pc := fun hp => absurd hf (by simp [hp]) }

theorem Frame.randomDraw {f : Touches} {s t : State} (h : Frame f s t) (hf : f.draws = true) :
    Frame f s t.randomDraw.2 :=
  { h with draws := fun hd => absurd hf (by simp [hd]) }

theorem frame_rnd (s : State) (x : Reg) (b : Byte) :
    Frame { regs := [x], draws := true } s (s.randomDraw.2.setV x b) :=
  ((Frame.refl _ s).randomDraw rfl).setV (List.mem_singleton_self x) b

/-- A transfer of control through the stack, or the fault that stands in for it. -/
theorem frame_stack_transfer (s : State) (w : Word) (frames : List Word) (fault : Option FaultRecord) :
    Frame { pc := true, stack := true, fault := true } s { s with pc := w, stack := frames, fault := fault } := by
  constructor <;> simp [State.getV, State.readMem, State.pixel, State.held]

/-! ## The two outcomes of a call and of a return, in every state (R58, R60, R102, R103) -/

theorem exec_call_of_ge (nnn : Addr) {s : State} (h : stackDepth ≤ s.depth) :
    exec (.call nnn) s = .next (s.raise .stackOverflow (encode (.call nnn))) := by
  simp only [exec, execCall, s.push_of_full s.pc h]

theorem exec_call_cases (nnn : Addr) (s : State) :
    (s.depth < stackDepth ∧ exec (.call nnn) s = .next ({ s with stack := s.stack ++ [s.pc] }.setPc (zextAddr nnn))) ∨
      (stackDepth ≤ s.depth ∧ exec (.call nnn) s = .next (s.raise .stackOverflow (encode (.call nnn)))) := by
  rcases Nat.lt_or_ge s.depth stackDepth with hlt | hge
  · exact .inl ⟨hlt, exec_call_of_lt nnn hlt⟩
  · exact .inr ⟨hge, exec_call_of_ge nnn hge⟩

theorem exec_ret_cases (u : Nibble) (s : State) :
    (∃ below w, s.stack = below ++ [w] ∧ exec (.ret u) s = .next ({ s with stack := below }.setPc w)) ∨
      (s.depth = 0 ∧ exec (.ret u) s = .next (s.raise .stackUnderflow (encode (.ret u)))) := by
  obtain ⟨hempty, -⟩ | ⟨below, w, hs, -⟩ := s.pop_cases
  · exact .inr ⟨hempty, exec_ret_of_empty u hempty⟩
  · exact .inl ⟨below, w, hs, exec_ret_of_frame u hs⟩

/-! ## What an instruction keeps -/

/-- `t` is `s` but for what `i` may touch; memory is the same list of cells where `i` writes none, and stays in canonical form. -/
structure Keeps (i : Instr) (s t : State) : Prop extends Frame (touches i s) s t where
  cells : (touches i s).cells = [] → t.mem = s.mem
  wf    : s.mem.wf = true → t.mem.wf = true

theorem Keeps.of_mem_eq {i : Instr} {s t : State} (h : Frame (touches i s) s t) (hmem : t.mem = s.mem) : Keeps i s t :=
  { h with cells := fun _ => hmem, wf := fun hs => hmem ▸ hs }

theorem exec_cls (u : Nibble) (s : State) :
    exec (.cls u) s = .next (s.clearDisplay.setRedraw (s.anyPixel || s.shouldRedraw)) := by
  cases hany : s.anyPixel
  · exact exec_cls_of_not_anyPixel u (by simp [hany])
  · exact exec_cls_of_anyPixel u hany

theorem exec_rnd (x : Reg) (nn : Byte) (s : State) :
    exec (.rnd x nn) s = .next (s.randomDraw.2.setV x (Config.randomDraw s.draws &&& nn)) := rfl

/-- Every instruction, in every state, answers a next state and keeps what it does not touch. -/
theorem exec_keeps (i : Instr) (s : State) : ∃ t, exec i s = .next t ∧ Keeps i s t := by
  cases i with
  | cls u => exact ⟨_, exec_cls u s, .of_mem_eq (((Frame.refl _ s).clearDisplay rfl).setRedraw rfl _) rfl⟩
  | ret u =>
    obtain ⟨below, w, -, h⟩ | ⟨-, h⟩ := exec_ret_cases u s
    · exact ⟨_, h, .of_mem_eq (frame_stack_transfer ..) rfl⟩
    · exact ⟨_, h, .of_mem_eq (frame_stack_transfer ..) rfl⟩
  | call nnn =>
    obtain ⟨-, h⟩ | ⟨-, h⟩ := exec_call_cases nnn s
    · exact ⟨_, h, .of_mem_eq (frame_stack_transfer ..) rfl⟩
    · exact ⟨_, h, .of_mem_eq (frame_stack_transfer ..) rfl⟩
  | jp nnn => exact ⟨_, exec_jp nnn s, .of_mem_eq (frame_setPc ..) rfl⟩
  | jpV0 nnn => exact ⟨_, exec_jpV0 nnn s, .of_mem_eq (frame_setPc ..) rfl⟩
  | seImm x nn => exact ⟨_, exec_seImm x nn s, .of_mem_eq (frame_setPc ..) rfl⟩
  | sneImm x nn => exact ⟨_, exec_sneImm x nn s, .of_mem_eq (frame_setPc ..) rfl⟩
  | seReg x y u => exact ⟨_, exec_seReg x y u s, .of_mem_eq (frame_setPc ..) rfl⟩
  | sneReg x y u => exact ⟨_, exec_sneReg x y u s, .of_mem_eq (frame_setPc ..) rfl⟩
  | skp x => exact ⟨_, exec_skp x s, .of_mem_eq (frame_setPc ..) rfl⟩
  | sknp x => exact ⟨_, exec_sknp x s, .of_mem_eq (frame_setPc ..) rfl⟩
  | ldImm | addImm | ldReg | orReg | andReg | xorReg | ldVxDt => exact ⟨_, rfl, .of_mem_eq (frame_setV ..) rfl⟩
  | addReg | subReg | shrReg | subnReg | shlReg => exact ⟨_, rfl, .of_mem_eq (frame_flagged ..) rfl⟩
  | rnd x nn => exact ⟨_, exec_rnd x nn s, .of_mem_eq (frame_rnd ..) rfl⟩
  | ldI | addIVx | ldFVx => exact ⟨_, rfl, .of_mem_eq (frame_setI ..) rfl⟩
  | drw x y n =>
    obtain ⟨_, _, _, h, -⟩ := State.drawBits_keep x y (s.getV x) (s.getV y) (spriteBits n.toNat) (s.setFlag false)
    exact ⟨_, exec_drw x y n s, .of_mem_eq ((drawn_start s).loop x y n.toNat).frame (by rw [h]; rfl)⟩
  | ldVxK x =>
    by_cases hheld : ∃ k, s.held k = true
    · exact ⟨_, exec_ldVxK_of_held x hheld, .of_mem_eq ((Frame.refl _ s).setV (List.mem_singleton_self x) _) rfl⟩
    · exact ⟨_, exec_ldVxK_of_none_held x (by simpa using hheld), .of_mem_eq ((Frame.refl _ s).setPc rfl _) rfl⟩
  | ldDtVx x => exact ⟨_, exec_ldDtVx x s, .of_mem_eq (frame_setDt ..) rfl⟩
  | ldStVx x => exact ⟨_, exec_ldStVx x s, .of_mem_eq (frame_setSt ..) rfl⟩
  | ldBVx x =>
    exact ⟨_, exec_ldBVx x s, { frame_storeThree s _ _ _ with
      cells := fun h => absurd h (by simp [touches, State.indexCells])
      wf := fun h => Memory.write_wf _ _ _ (Memory.write_wf _ _ _ (Memory.write_wf _ _ _ h)) }⟩
  | ldMemVx x =>
    obtain ⟨m, hm, hwf⟩ := State.storeRegs_keep (regsUpTo x) s
    exact ⟨_, exec_ldMemVx x s, { frame_storeRegs s fun _ => val_mem_range_of_mem_regsUpTo with
      cells := fun h => absurd h (by simp [touches, State.indexCells])
      wf := fun h => by rw [hm]; exact hwf h }⟩
  | ldVxMem x =>
    obtain ⟨_, h⟩ := State.loadRegs_keep (regsUpTo x) s
    exact ⟨_, exec_ldVxMem x s, .of_mem_eq (frame_loadRegs s fun _ => mem_filter_le_of_mem_regsUpTo) (by rw [h])⟩

theorem Keeps.of_exec {i : Instr} {s t : State} (h : exec i s = .next t) : Keeps i s t := by
  obtain ⟨t', h', hkeeps⟩ := exec_keeps i s
  obtain rfl := Host.Outcome.next.inj (h.symm.trans h')
  exact hkeeps

/-- Settles O51: the frame of `exec_keeps`. -/
theorem execTouchesOnly : Obligations.ExecTouchesOnly := fun i s => by
  obtain ⟨t, h, hkeeps⟩ := exec_keeps i s
  exact ⟨t, h, hkeeps.toFrame⟩

/-- Settles O30: one register write of the masked draw, and the advance of the counter. -/
theorem randomDrawIsMasked : Obligations.RandomDrawIsMasked := by
  refine ⟨encodes_rnd, fun x nn s => ⟨_, exec_rnd x nn s, rfl, fun b => ?_, frame_rnd ..⟩⟩
  rw [State.getV_setV_self, BitVec.getLsbD_and]

/-! ## What each part's writers are: `touches`, read backwards -/

theorem touches_stack_eq_fault (i : Instr) (s : State) : (touches i s).stack = (touches i s).fault := by
  cases i <;> rfl

theorem eq_of_touches_fault {i : Instr} {s : State} (h : (touches i s).fault = true) :
    (∃ nnn, i = .call nnn) ∨ ∃ u, i = .ret u := by
  cases i <;> simp [touches] at h ⊢

theorem eq_of_touches_delay {i : Instr} {s : State} (h : (touches i s).delay = true) : ∃ x, i = .ldDtVx x := by
  cases i <;> simp [touches] at h ⊢

theorem eq_of_touches_sound {i : Instr} {s : State} (h : (touches i s).sound = true) : ∃ x, i = .ldStVx x := by
  cases i <;> simp [touches] at h ⊢

theorem eq_of_touches_index {i : Instr} {s : State} (h : (touches i s).index = true) :
    (∃ nnn, i = .ldI nnn) ∨ ∃ x, i = .addIVx x ∨ i = .ldFVx x := by
  cases i <;> simp [touches] at h ⊢

theorem eq_of_touches_display {i : Instr} {s : State} (h : (touches i s).display = true) :
    (∃ u, i = .cls u) ∨ ∃ x y n, i = .drw x y n := by
  cases i <;> simp [touches] at h ⊢

theorem eq_of_touches_cells {i : Instr} {s : State} (h : (touches i s).cells ≠ []) :
    ∃ x, i = .ldBVx x ∨ i = .ldMemVx x := by
  cases i <;> simp [touches] at h ⊢

end Sys2Proof.Machine

/-! PROOFS. The statements about a whole step: the transaction it takes (00_scope.md, section 5), the Cycle (40_cycle.md), the events
(60_exceptions.md, section 2), the answer that it always gives and the parameters that it keeps. -/

namespace Sys2Proof.Machine

/-! ## The transaction that a step takes (R8) -/

/-- The next step takes `e` and leaves the schedule `rest`; an empty schedule means a Cycle (log 1). -/
def State.takesLeaving (s : State) (e : Transaction) (rest : List Transaction) : Prop :=
  s.inputs = [] ∧ e = .cycle ∧ rest = [] ∨ s.inputs = e :: rest

theorem State.exists_takesLeaving (s : State) : ∃ e rest, s.takesLeaving e rest := by
  cases h : s.inputs with
  | nil => exact ⟨.cycle, [], .inl ⟨h, rfl, rfl⟩⟩
  | cons e rest => exact ⟨e, rest, .inr h⟩

theorem State.exists_takesLeaving_cycle {s : State} (h : s.takesCycle) : ∃ rest, s.takesLeaving .cycle rest := by
  obtain hnil | ⟨rest, hrest⟩ := h
  · exact ⟨[], .inl ⟨hnil, rfl, rfl⟩⟩
  · exact ⟨rest, .inr hrest⟩

theorem State.takesLeaving.takes {s : State} {e : Transaction} {rest : List Transaction} (h : s.takesLeaving e rest)
    (he : e ≠ .cycle) : s.takes e := by
  obtain ⟨-, hcycle, -⟩ | hrest := h
  · exact absurd hcycle he
  · exact ⟨rest, hrest⟩

theorem State.takesLeaving.takesCycle {s : State} {rest : List Transaction} (h : s.takesLeaving .cycle rest) :
    s.takesCycle := by
  obtain ⟨hnil, -, -⟩ | hrest := h
  · exact .inl hnil
  · exact .inr ⟨rest, hrest⟩

/-- Settles O49: the two cases of the schedule. -/
theorem transactionsTakenInOrder : Obligations.TransactionsTakenInOrder := by
  intro s
  refine ⟨fun hnil => ?_, fun e rest hrest => ?_⟩
  · rw [step, State.advance, hnil]
    rfl
  · rw [step, State.advance, hrest]

theorem step_of_takesLeaving {s : State} {e : Transaction} {rest : List Transaction} (h : s.takesLeaving e rest) :
    step s = State.transact e { s with inputs := rest } := by
  obtain ⟨hempty, hfirst⟩ := transactionsTakenInOrder s
  obtain ⟨hnil, rfl, rfl⟩ | hrest := h
  · have hs : { s with inputs := [] } = s := by rw [← hnil]
    rw [hempty hnil, hs]
  · exact hfirst e rest hrest

/-! ## The Cycle that a step is (R50) -/

/-- Settles O8: the Cycle's answers, in the state with the transaction taken off the schedule. -/
theorem stepRunsDecodedInstruction : Obligations.StepRunsDecodedInstruction := by
  intro s rest hrest hf
  have htakes : s.takesLeaving .cycle rest := hrest.imp_left fun ⟨hnil, h⟩ => ⟨hnil, rfl, h⟩
  rw [step_of_takesLeaving htakes]
  exact ⟨fun i hd => State.cycle_of_instr hf hd, fun g hd => State.cycle_of_undefined hf hd⟩

/-- A Cycle that answers a next state did nothing, was the no-op of an undefined word, or ran the decoded instruction. -/
theorem State.cycle_eq_next_cases {s t : State} (h : s.cycle = .next t) :
    t = s ∨ (s.fault = none ∧ t = s.handlerEntry) ∨
      ∃ i, s.fault = none ∧ decode s.fetchWord = .instr i ∧ exec i s.handlerEntry = .next t := by
  obtain ⟨-, hc⟩ | ⟨hf, ⟨i, hd, hc⟩ | ⟨g, -, hc⟩⟩ := s.cycle_cases
  · exact .inl (Host.Outcome.next.inj (h.symm.trans hc))
  · exact .inr (.inr ⟨i, hf, hd, hc.symm.trans h⟩)
  · exact .inr (.inl ⟨hf, Host.Outcome.next.inj (h.symm.trans hc)⟩)

theorem State.runs.step_eq {s : State} {i : Instr} (h : s.runs i) :
    ∃ rest, step s = exec i ({ s with inputs := rest } : State).handlerEntry := by
  obtain ⟨hcycle, hf, hd⟩ := h
  obtain ⟨rest, hrest⟩ := State.exists_takesLeaving_cycle hcycle
  exact ⟨rest, (step_of_takesLeaving hrest).trans (State.cycle_of_instr hf hd)⟩

/-- The fetch advances `pc` by 2, and a taken skip by 2 more. -/
theorem State.runs.skips {s : State} {i : Instr} (h : s.runs i)
    (hskip : ∀ rest, ∃ t, exec i ({ s with inputs := rest } : State).handlerEntry = .next t ∧ t.pc = s.pc + 2 + 2) :
    ∃ t, step s = .next t ∧ t.pc = s.pc + 4 := by
  obtain ⟨rest, hstep⟩ := h.step_eq
  obtain ⟨t, ht, hpc⟩ := hskip rest
  exact ⟨t, hstep.trans ht, hpc.trans (BitVec.add_assoc ..)⟩

/-- Settles O15: each of the six skips, taken in the state in which its handler starts. -/
theorem skipLandsTwoWordsOn : Obligations.SkipLandsTwoWordsOn := by
  intro s x y nn u hcycle hf hskip
  obtain ⟨hd, hv⟩ | ⟨hd, hv⟩ | ⟨hd, hv⟩ | ⟨hd, hv⟩ | ⟨hd, hv⟩ | ⟨hd, hv⟩ := hskip
  · exact State.runs.skips ⟨hcycle, hf, hd⟩ fun rest => ⟨_, exec_seImm .., if_pos hv⟩
  · exact State.runs.skips ⟨hcycle, hf, hd⟩ fun rest => ⟨_, exec_sneImm .., if_neg hv⟩
  · exact State.runs.skips ⟨hcycle, hf, hd⟩ fun rest => ⟨_, exec_seReg .., if_pos hv⟩
  · exact State.runs.skips ⟨hcycle, hf, hd⟩ fun rest => ⟨_, exec_sneReg .., if_neg hv⟩
  · have hpressed : s.keyPressed (s.getV x) = true := (s.keyPressed_iff _).2 (by simpa only [and_comm] using hv)
    exact State.runs.skips ⟨hcycle, hf, hd⟩ fun rest => ⟨_, exec_skp .., if_pos hpressed⟩
  · have hpressed : ¬ s.keyPressed (s.getV x) = true := fun h =>
      hv (by simpa only [and_comm] using (s.keyPressed_iff _).1 h)
    exact State.runs.skips ⟨hcycle, hf, hd⟩ fun rest => ⟨_, exec_sknp .., if_neg hpressed⟩

/-- Settles O16: the jump sets `pc` back to the address that the fetch advanced, and only the cleared should_redraw remains. -/
theorem selfJumpIsFixedPoint : Obligations.SelfJumpIsFixedPoint := by
  intro s nnn hf hd hpc
  calc State.transact .cycle s = exec (.jp nnn) s.handlerEntry := State.cycle_of_instr hf hd
    _ = .next ((s.setRedraw false).setPc (zextAddr nnn)) := rfl
    _ = .next { s with shouldRedraw := false } := by rw [zextAddr, ← hpc]; rfl

/-! ## A word placed at `pc` is fetched (log 2) -/

theorem tableWord_toNat (w : Word) : tableWord 16 w.toNat = w := by
  rw [tableWord, Nat.mod_eq_of_lt w.isLt, BitVec.ofNat_toNat, BitVec.setWidth_eq]

theorem State.fetchWord_withFetchWord (s : State) (w : Word) : (s.withFetchWord 16 w.toNat).fetchWord = w := by
  have hne : s.pc.toNat % memSize ≠ (s.pc.toNat + 1) % memSize := by
    simp only [memSize]
    omega
  have hlo := ((s.writeMem s.pc.toNat (bytesOfWord w).1).readMem_writeMem_same (s.pc.toNat + 1) (bytesOfWord w).2)
  have hhi := (State.readMem_writeMem_of_mod_ne (s.writeMem s.pc.toNat (bytesOfWord w).1) (bytesOfWord w).2 hne).trans
    (s.readMem_writeMem_same s.pc.toNat _)
  calc (s.withFetchWord 16 w.toNat).fetchWord = wordOfBytes (bytesOfWord w).1 (bytesOfWord w).2 := by
        rw [State.withFetchWord, State.placeFetchWord, tableWord_toNat]
        exact congrArg₂ wordOfBytes hhi hlo
    _ = w := wordOfBytes_bytesOfWord w

/-- Settles O12: the placed word is fetched, and decodes to the instruction. -/
theorem placedWordRunsNext : Obligations.PlacedWordRunsNext := by
  intro i s
  have hd : decode (s.withFetchWord 16 (encode i).toNat).fetchWord = .instr i := by
    rw [State.fetchWord_withFetchWord, decode_encode]
  exact (step_of_takesLeaving (.inl ⟨rfl, rfl, rfl⟩)).trans (State.cycle_of_instr rfl hd)

/-! ## Events (R109, R110, R113) -/

theorem State.tick_eq (s : State) : ∃ dt st, s.tick = { s with dt := dt, st := st } := by
  unfold State.tick
  split
  · exact ⟨_, _, rfl⟩
  · exact ⟨s.dt, s.st, rfl⟩

/-- Settles O50: each event is a record update of its own parts. -/
theorem eventsNeverRedirectControl : Obligations.EventsNeverRedirectControl := by
  intro s k
  obtain ⟨dt, st, htick⟩ := s.tick_eq
  simp only [List.forall_mem_cons, List.not_mem_nil, false_imp_iff, implies_true, and_true]
  exact ⟨⟨⟨dt, st, s.timerRunning, congrArg _ htick⟩, ⟨s.dt, s.st, true, rfl⟩, ⟨s.dt, s.st, false, rfl⟩⟩,
    ⟨(s.keyDown k).keys, rfl⟩, ⟨(s.keyUp k).keys, rfl⟩⟩

/-! ## Every step answers a next state -/

theorem State.cycle_answers (s : State) : ∃ t, s.cycle = .next t := by
  obtain ⟨-, hc⟩ | ⟨-, ⟨i, -, hc⟩ | ⟨g, -, hc⟩⟩ := s.cycle_cases
  · exact ⟨_, hc⟩
  · obtain ⟨t, ht, -⟩ := exec_keeps i s.handlerEntry
    exact ⟨t, hc.trans ht⟩
  · exact ⟨_, hc⟩

theorem State.transact_answers (e : Transaction) (s : State) : ∃ t, State.transact e s = .next t := by
  cases e with
  | cycle => exact s.cycle_answers
  | loadProgram | tick | keyDown | keyUp | startTimer | stopTimer => exact ⟨_, rfl⟩

/-- Settles O11: every transaction answers a next state. -/
theorem stepAlwaysAnswersNext : Obligations.StepAlwaysAnswersNext := by
  intro s
  obtain ⟨e, rest, htakes⟩ := s.exists_takesLeaving
  rw [step_of_takesLeaving htakes]
  exact State.transact_answers e _

/-! ## Parameters -/

theorem State.cycle_keeps_params {s t : State} (h : s.cycle = .next t) : t.params = s.params := by
  obtain rfl | ⟨-, rfl⟩ | ⟨i, -, -, hexec⟩ := State.cycle_eq_next_cases h
  · rfl
  · rfl
  · exact (Keeps.of_exec hexec).params

theorem State.transact_keeps_params {e : Transaction} {s t : State} (h : State.transact e s = .next t) :
    t.params = s.params := by
  cases e with
  | cycle => exact State.cycle_keeps_params h
  | tick =>
    obtain ⟨dt, st, htick⟩ := s.tick_eq
    obtain rfl := Host.Outcome.next.inj h
    rw [htick]
  | loadProgram | keyDown | keyUp | startTimer | stopTimer =>
    obtain rfl := Host.Outcome.next.inj h
    rfl

/-- Settles O55: no transaction changes the parameters. -/
theorem stepKeepsParameters : Obligations.StepKeepsParameters := by
  intro s t h
  obtain ⟨e, rest, htakes⟩ := s.exists_takesLeaving
  rw [step_of_takesLeaving htakes] at h
  exact (State.transact_keeps_params h :)

end Sys2Proof.Machine

/-! PROOFS. The invariant of the machine (60_exceptions.md, section 1), and the writers of each part of the state (10_state.md,
section 10). -/

namespace Sys2Proof.Machine

/-! ## The invariant at power-on -/

theorem State.Inv.of_no_fault {s : State} (hmem : s.mem.wf = true) (hdepth : s.depth ≤ stackDepth) (hf : s.fault = none) :
    s.Inv :=
  ⟨hmem, hdepth, fun f h => absurd (hf.symm.trans h) (by simp)⟩

/-- Settles O54: no cell breaks the canonical form, no frame is held and no fault is recorded. -/
theorem powerOnMeetsInvariant : Obligations.PowerOnMeetsInvariant :=
  ⟨.of_no_fault State.reset_mem_wf (Nat.zero_le _) rfl,
    fun p font => .of_no_fault (State.powerOn_mem_wf p font) (Nat.zero_le _) rfl⟩

/-! ## Every instruction keeps the invariant -/

theorem State.Inv.raise {s : State} {cause : Fault} {w : Word} (hmem : s.mem.wf = true) (hdepth : s.depth ≤ stackDepth)
    (hfits : (s.raise cause w).faultFits { cause := cause, pc := s.fetchAddr, word := w }) : (s.raise cause w).Inv := by
  refine ⟨hmem, hdepth, fun f hf => ?_⟩
  obtain rfl := Option.some.inj hf
  exact hfits

/-- A handler runs with no fault recorded and should_redraw cleared (R50). Only a call and a return change the stack or the fault. -/
theorem exec_keeps_inv {i : Instr} {s t : State} (hs : s.Inv) (hf : s.fault = none) (hredraw : s.shouldRedraw = false)
    (h : exec i s = .next t) : t.Inv := by
  obtain ⟨hmem, hdepth, -⟩ := hs
  have hkeeps := Keeps.of_exec h
  cases hfault : (touches i s).fault with
  | false =>
    have hstack : t.stack = s.stack := hkeeps.stack (by rw [touches_stack_eq_fault, hfault])
    refine .of_no_fault (hkeeps.wf hmem) ?_ ((hkeeps.fault hfault).trans hf)
    rwa [State.depth, hstack]
  | true =>
    obtain ⟨nnn, rfl⟩ | ⟨u, rfl⟩ := eq_of_touches_fault hfault
    · obtain ⟨hlt, hcall⟩ | ⟨hge, hcall⟩ := exec_call_cases nnn s
      · obtain rfl := Host.Outcome.next.inj (hcall.symm.trans h)
        exact .of_no_fault hmem (by simpa [State.depth] using hlt) hf
      · obtain rfl := Host.Outcome.next.inj (hcall.symm.trans h)
        exact .raise hmem hdepth ⟨rfl, hredraw, hdepth.antisymm hge, nnn, rfl⟩
    · obtain ⟨below, w, hframe, hret⟩ | ⟨hempty, hret⟩ := exec_ret_cases u s
      · obtain rfl := Host.Outcome.next.inj (hret.symm.trans h)
        have hbelow : below.length ≤ s.depth := by simp [State.depth, hframe]
        exact .of_no_fault hmem (hbelow.trans hdepth) hf
      · obtain rfl := Host.Outcome.next.inj (hret.symm.trans h)
        exact .raise hmem hdepth ⟨rfl, hredraw, hempty, u, rfl⟩

/-! ## Every transaction keeps the invariant -/

theorem State.Inv.handlerEntry {s : State} (hs : s.Inv) (hf : s.fault = none) : s.handlerEntry.Inv := by
  obtain ⟨hmem, hdepth, -⟩ := hs
  exact .of_no_fault hmem hdepth hf

theorem State.cycle_keeps_inv {s t : State} (hs : s.Inv) (h : s.cycle = .next t) : t.Inv := by
  obtain rfl | ⟨hf, rfl⟩ | ⟨i, hf, -, hexec⟩ := State.cycle_eq_next_cases h
  · exact hs
  · exact hs.handlerEntry hf
  · exact exec_keeps_inv (hs.handlerEntry hf) hf rfl hexec

/-- The invariant speaks of no timer, no key and no schedule, so that the events keep it as it stands. -/
theorem State.transact_keeps_inv {e : Transaction} {s t : State} (hs : s.Inv) (h : State.transact e s = .next t) : t.Inv := by
  cases e with
  | cycle => exact State.cycle_keeps_inv hs h
  | loadProgram program =>
    obtain rfl := Host.Outcome.next.inj h
    obtain ⟨hmem, -, -⟩ := hs
    exact .of_no_fault (Memory.load_wf _ _ hmem) (Nat.zero_le _) rfl
  | tick =>
    obtain ⟨dt, st, htick⟩ := s.tick_eq
    obtain rfl := Host.Outcome.next.inj h
    rw [htick]
    exact hs
  | keyDown | keyUp | startTimer | stopTimer =>
    obtain rfl := Host.Outcome.next.inj h
    exact hs

/-- Settles O53: the invariant does not speak of the schedule, and the transaction keeps it. -/
theorem stepKeepsInvariant : Obligations.StepKeepsInvariant := by
  intro s t hs h
  obtain ⟨e, rest, htakes⟩ := s.exists_takesLeaving
  rw [step_of_takesLeaving htakes] at h
  have hrest : ({ s with inputs := rest } : State).Inv := hs
  exact State.transact_keeps_inv hrest h

/-! ## Parts read alike are equal -/

theorem State.keys_ext {s t : State} (h : ∀ k, t.held k = s.held k) : t.keys = s.keys :=
  Vector.ext fun k hk => h ⟨k, hk⟩

theorem State.disp_ext {s t : State} (h : ∀ c r, t.pixel c r = s.pixel c r) : t.disp = s.disp :=
  Vector.ext fun c hc => Vector.ext fun r hr => h ⟨c, hc⟩ ⟨r, hr⟩

/-! ## The instructions that write each part

`P` is what is known of the instruction that ran; it is then known of a writer of the part that changed. -/

section

variable {P : Instr → Prop} {i : Instr} {s t : State}

theorem Keeps.dt_writer (h : Keeps i s t) (hi : P i) (hne : t.dt ≠ s.dt) : ∃ x, P (.ldDtVx x) := by
  obtain ⟨x, rfl⟩ := eq_of_touches_delay (eq_true_of_ne_false (mt h.delay hne))
  exact ⟨x, hi⟩

theorem Keeps.st_writer (h : Keeps i s t) (hi : P i) (hne : t.st ≠ s.st) : ∃ x, P (.ldStVx x) := by
  obtain ⟨x, rfl⟩ := eq_of_touches_sound (eq_true_of_ne_false (mt h.sound hne))
  exact ⟨x, hi⟩

theorem Keeps.i_writer (h : Keeps i s t) (hi : P i) (hne : t.i ≠ s.i) :
    (∃ nnn, P (.ldI nnn)) ∨ ∃ x, P (.addIVx x) ∨ P (.ldFVx x) := by
  obtain ⟨nnn, rfl⟩ | ⟨x, rfl | rfl⟩ := eq_of_touches_index (eq_true_of_ne_false (mt h.index hne))
  · exact .inl ⟨nnn, hi⟩
  · exact .inr ⟨x, .inl hi⟩
  · exact .inr ⟨x, .inr hi⟩

theorem call_or_ret_of_touches_fault (hi : P i) (h : (touches i s).fault = true) :
    (∃ nnn, P (.call nnn)) ∨ ∃ u, P (.ret u) := by
  obtain ⟨nnn, rfl⟩ | ⟨u, rfl⟩ := eq_of_touches_fault h
  · exact .inl ⟨nnn, hi⟩
  · exact .inr ⟨u, hi⟩

theorem Keeps.stack_writer (h : Keeps i s t) (hi : P i) (hne : t.stack ≠ s.stack) :
    (∃ nnn, P (.call nnn)) ∨ ∃ u, P (.ret u) :=
  call_or_ret_of_touches_fault hi (touches_stack_eq_fault i s ▸ eq_true_of_ne_false (mt h.stack hne))

theorem Keeps.fault_writer (h : Keeps i s t) (hi : P i) (hne : t.fault ≠ s.fault) :
    (∃ nnn, P (.call nnn)) ∨ ∃ u, P (.ret u) :=
  call_or_ret_of_touches_fault hi (eq_true_of_ne_false (mt h.fault hne))

theorem Keeps.mem_writer (h : Keeps i s t) (hi : P i) (hne : t.mem ≠ s.mem) : ∃ x, P (.ldBVx x) ∨ P (.ldMemVx x) := by
  obtain ⟨x, rfl | rfl⟩ := eq_of_touches_cells (mt h.cells hne)
  · exact ⟨x, .inl hi⟩
  · exact ⟨x, .inr hi⟩

theorem Keeps.disp_writer (h : Keeps i s t) (hi : P i) (hne : t.disp ≠ s.disp) :
    (∃ u, P (.cls u)) ∨ ∃ x y n, P (.drw x y n) := by
  have hdisplay : (touches i s).display ≠ false := fun hd => hne (State.disp_ext (h.display hd))
  obtain ⟨u, rfl⟩ | ⟨x, y, n, rfl⟩ := eq_of_touches_display (eq_true_of_ne_false hdisplay)
  · exact .inl ⟨u, hi⟩
  · exact .inr ⟨x, y, n, hi⟩

end

/-! ## The obligation -/

/-- Settles O52: an event writes its own parts, an idle Cycle none that is named, and the rest are what the instruction run touches. -/
theorem eachPartHasItsWriters : Obligations.EachPartHasItsWriters := by
  intro s t h
  obtain ⟨e, rest, htakes⟩ := s.exists_takesLeaving
  rw [step_of_takesLeaving htakes] at h
  cases e with
  | loadProgram program => exact .inl ⟨program, htakes.takes (by simp)⟩
  | tick =>
    have ht : s.takes .tick := htakes.takes (by simp)
    obtain ⟨dt, st, htick⟩ := State.tick_eq { s with inputs := rest }
    obtain rfl := Host.Outcome.next.inj h
    exact .inr (by simp [htick, ht])
  | keyDown k =>
    have ht : ∃ k, s.takes (.keyDown k) ∨ s.takes (.keyUp k) := ⟨k, .inl (htakes.takes (by simp))⟩
    obtain rfl := Host.Outcome.next.inj h
    exact .inr (by simp [State.keyDown, ht])
  | keyUp k =>
    have ht : ∃ k, s.takes (.keyDown k) ∨ s.takes (.keyUp k) := ⟨k, .inr (htakes.takes (by simp))⟩
    obtain rfl := Host.Outcome.next.inj h
    exact .inr (by simp [State.keyUp, ht])
  | startTimer =>
    have ht : s.takes .startTimer := htakes.takes (by simp)
    obtain rfl := Host.Outcome.next.inj h
    exact .inr (by simp [State.startTimer, ht])
  | stopTimer =>
    have ht : s.takes .stopTimer := htakes.takes (by simp)
    obtain rfl := Host.Outcome.next.inj h
    exact .inr (by simp [State.stopTimer, ht])
  | cycle =>
    obtain rfl | ⟨-, rfl⟩ | ⟨i, hf, hd, hexec⟩ := State.cycle_eq_next_cases h
    · exact .inr (by simp)
    · exact .inr (by simp)
    · have hruns : s.runs i := ⟨htakes.takesCycle, hf, hd⟩
      have hkeeps := Keeps.of_exec hexec
      exact .inr ⟨fun hne => absurd (State.keys_ext hkeeps.keys) hne, fun hne => absurd hkeeps.timerRunning hne,
        fun hne => .inr (hkeeps.dt_writer hruns hne), fun hne => .inr (hkeeps.st_writer hruns hne),
        hkeeps.i_writer hruns, hkeeps.stack_writer hruns, hkeeps.mem_writer hruns, hkeeps.disp_writer hruns,
        fun hne => ⟨hf, hkeeps.fault_writer hruns hne⟩⟩

end Sys2Proof.Machine

/-! PROOFS. The statements about two instructions, or an instruction and a fetch, one after the other (20_memory.md, 41_flow.md,
43_index_memory.md). -/

namespace Sys2Proof.Machine

/-- Settles O21: the return pops what the call pushed, the address after the call, wherever it runs. -/
theorem callThenReturnResumes : Obligations.CallThenReturnResumes := fun nnn u s hlt =>
  ⟨_, exec_call_of_lt nnn hlt, fun _ => ⟨_, exec_ret_of_frame u (below := s.stack) (w := s.pc) rfl, rfl, rfl⟩⟩

/-- Two addresses that are equal modulo 4096 read alike. -/
theorem State.readMem_of_mod_eq (s : State) {a b : Nat} (h : a % memSize = b % memSize) : s.readMem a = s.readMem b := by
  rw [← s.readMem_mod a, h, s.readMem_mod b]

/-- Settles O14: the fetch reads the two cells that the loop stored `V[r]` and `V[r + 1]` in. -/
theorem storedCodeIsFetched : Obligations.StoredCodeIsFetched := by
  intro x r r' s hr' hle
  obtain ⟨t, ht, hstored, -⟩ := registersStored.2 x s
  refine ⟨t, ht, fun hpc => ?_⟩
  have hr : r ≤ x := (Fin.le_def.2 (by omega)).trans hle
  have hhi : t.readMem t.pc.toNat = s.getV r := (t.readMem_of_mod_eq hpc).trans (hstored r hr)
  have hlo : t.readMem (t.pc.toNat + 1) = s.getV r' := by
    rw [← hstored r' hle]
    refine t.readMem_of_mod_eq ?_
    simp only [State.indexAddr, memSize]
    omega
  exact congrArg₂ wordOfBytes hhi hlo

/-- Settles O35: what the store left in memory at each address is what the load reads there. -/
theorem storeThenLoadRestores : Obligations.StoreThenLoadRestores := by
  intro x s
  obtain ⟨t, ht, hstored, hframe⟩ := registersStored.2 x s
  refine ⟨t, ht, fun t' hi hmem => ?_⟩
  obtain ⟨u, hu, hloaded, -⟩ := registersLoaded.2 x t'
  refine ⟨u, hu, fun r hr => ?_⟩
  have haddr : t'.indexAddr r.val = s.indexAddr r.val := by
    rw [State.indexAddr, hi, hframe.index rfl, State.indexAddr]
  calc u.getV r = t'.readMem (t'.indexAddr r.val) := hloaded r hr
    _ = t.readMem (s.indexAddr r.val) := by rw [haddr, hmem]
    _ = s.getV r := hstored r hr

end Sys2Proof.Machine

/-! PROOFS. What no instruction reads: the sound timer and timer_running (10_state.md, section 5), and, away from `VF`, the parameter
VF_READ (42_alu.md, section 1). -/

namespace Sys2Proof.Machine

/-! ## Another ST and timer_running -/

/-- `s` with ST and timer_running as given. -/
def State.withSound (s : State) (sound : Byte) (running : Bool) : State := { s with st := sound, timerRunning := running }

theorem State.skipIf_withSound (s : State) (sound : Byte) (running : Bool) (c : Bool) :
    (s.withSound sound running).skipIf c = (s.skipIf c).withSound sound running := by
  rw [State.skipIf_eq, State.skipIf_eq]
  rfl

theorem State.drawBit_withSound (x y : Reg) (vx vy : Byte) (s : State) (sound : Byte) (running : Bool) (p : Nat × Nat) :
    State.drawBit x y vx vy (s.withSound sound running) p = (State.drawBit x y vx vy s p).withSound sound running := by
  rw [State.drawBit, State.drawBit, State.xorPixel, State.xorPixel, State.plot_eq, State.plot_eq]
  rfl

/-- Every instruction but Fx18 answers alike whatever the two parts were, and leaves them as they were. -/
theorem exec_withSound {i : Instr} {s t : State} (hi : (touches i s).sound = false) (h : exec i s = .next t) (sound : Byte)
    (running : Bool) : exec i (s.withSound sound running) = .next (t.withSound sound running) := by
  cases i with
  | cls u =>
    rw [exec_cls] at h ⊢
    obtain rfl := Host.Outcome.next.inj h
    rfl
  | ret u =>
    obtain ⟨below, w, hframe, hret⟩ | ⟨hempty, hret⟩ := exec_ret_cases u s
    · obtain rfl := Host.Outcome.next.inj (hret.symm.trans h)
      exact exec_ret_of_frame u (s := s.withSound sound running) hframe
    · obtain rfl := Host.Outcome.next.inj (hret.symm.trans h)
      exact exec_ret_of_empty u (s := s.withSound sound running) hempty
  | call nnn =>
    obtain ⟨hlt, hcall⟩ | ⟨hge, hcall⟩ := exec_call_cases nnn s
    · obtain rfl := Host.Outcome.next.inj (hcall.symm.trans h)
      exact exec_call_of_lt nnn (s := s.withSound sound running) hlt
    · obtain rfl := Host.Outcome.next.inj (hcall.symm.trans h)
      exact exec_call_of_ge nnn (s := s.withSound sound running) hge
  | jp | jpV0 | ldImm | addImm | ldReg | orReg | andReg | xorReg | addReg | subReg | shrReg | subnReg | shlReg | ldI | rnd
  | ldVxDt | ldDtVx | addIVx | ldFVx | ldBVx =>
    obtain rfl := Host.Outcome.next.inj h
    rfl
  | seImm | sneImm | seReg | sneReg | skp | sknp =>
    obtain rfl := Host.Outcome.next.inj h
    exact congrArg _ (State.skipIf_withSound ..)
  | ldVxK x =>
    by_cases hheld : ∃ k, s.held k = true
    · rw [exec_ldVxK_of_held x hheld] at h
      obtain rfl := Host.Outcome.next.inj h
      exact exec_ldVxK_of_held x (s := s.withSound sound running) hheld
    · have hnone : ∀ k, s.held k = false := by simpa using hheld
      rw [exec_ldVxK_of_none_held x hnone] at h
      obtain rfl := Host.Outcome.next.inj h
      exact exec_ldVxK_of_none_held x (s := s.withSound sound running) hnone
  | drw x y n =>
    obtain rfl := Host.Outcome.next.inj h
    exact congrArg Host.Outcome.next (List.foldl_hom (fun u : State => u.withSound sound running)
      (init := s.setFlag false) fun u p => State.drawBit_withSound x y (s.getV x) (s.getV y) u sound running p)
  | ldMemVx x =>
    obtain rfl := Host.Outcome.next.inj h
    exact congrArg Host.Outcome.next (List.foldl_hom (fun u : State => u.withSound sound running) fun _ _ => rfl)
  | ldVxMem x =>
    obtain rfl := Host.Outcome.next.inj h
    exact congrArg Host.Outcome.next (List.foldl_hom (fun u : State => u.withSound sound running) fun _ _ => rfl)
  | ldStVx x => exact absurd hi (by simp [touches])

/-- Settles O56: Fx18 overwrites ST; every other instruction leaves both parts as they were. -/
theorem soundStateUnobservable : Obligations.SoundStateUnobservable := by
  intro i s t sound running h
  cases hi : (touches i s).sound with
  | false =>
    exact exec_withSound hi h sound running
  | true =>
    obtain ⟨x, rfl⟩ := eq_of_touches_sound hi
    obtain rfl := Host.Outcome.next.inj h
    rfl

/-! ## Another VF_READ -/

/-- `s` with the parameter VF_READ as given. -/
def State.withReading (s : State) (reading : VfRead) : State := { s with params := { s.params with vfRead := reading } }

theorem State.flagged_of_ne (s : State) {x y : Reg} (hx : x ≠ VF) (hy : y ≠ VF) (flag : Bool) (op : Byte → Byte → Byte) :
    s.flagged x y flag op = (s.setFlag flag).setV x (op (s.getV x) (s.getV y)) := by
  rw [State.flagged_eq, if_neg fun h => hx h.2, if_neg fun h => hy h.2]

theorem State.flagged_withReading (s : State) {x y : Reg} (hx : x ≠ VF) (hy : y ≠ VF) (flag : Bool)
    (op : Byte → Byte → Byte) (reading : VfRead) :
    (s.withReading reading).flagged x y flag op = (s.flagged x y flag op).withReading reading := by
  rw [State.flagged_of_ne _ hx hy, State.flagged_of_ne _ hx hy]
  rfl

theorem State.readAfterFlag_of_held {s : State} {x : Reg} {b : Byte} (h : s.getV x = b) : s.readAfterFlag x b = b := by
  unfold State.readAfterFlag
  split
  · exact h
  · rfl

theorem State.getV_drawBit_of_ne (x y : Reg) (vx vy : Byte) (s : State) (p : Nat × Nat) {r : Reg} (hr : r ≠ VF) :
    (State.drawBit x y vx vy s p).getV r = s.getV r :=
  ((Frame.refl drawTouches s).xorPixel ..).regs r (by simpa [drawTouches] using hr)

section

variable {x y : Reg} {vx vy : Byte} {s : State} (hvx : s.getV x = vx) (hvy : s.getV y = vy)

include hvx hvy

/-- While the coordinate registers hold what they held at the start, both readings give the same. -/
theorem State.drawBit_withReading (p : Nat × Nat) (reading : VfRead) :
    State.drawBit x y vx vy (s.withReading reading) p = (State.drawBit x y vx vy s p).withReading reading := by
  rw [State.drawBit, State.drawBit, State.readAfterFlag_of_held hvx, State.readAfterFlag_of_held hvy,
    State.readAfterFlag_of_held (s := s.withReading reading) hvx,
    State.readAfterFlag_of_held (s := s.withReading reading) hvy, State.xorPixel, State.xorPixel, State.plot_eq,
    State.plot_eq]
  rfl

theorem State.drawBits_withReading (hx : x ≠ VF) (hy : y ≠ VF) (ps : List (Nat × Nat)) (reading : VfRead) :
    ps.foldl (State.drawBit x y vx vy) (s.withReading reading) =
      (ps.foldl (State.drawBit x y vx vy) s).withReading reading := by
  induction ps generalizing s with
  | nil => rfl
  | cons p ps ih =>
    rw [List.foldl_cons, List.foldl_cons, State.drawBit_withReading hvx hvy]
    exact ih ((State.getV_drawBit_of_ne x y vx vy s p hx).trans hvx) ((State.getV_drawBit_of_ne x y vx vy s p hy).trans hvy)

end

/-- Five of the instructions have the common form of the ALU; the draw keeps its coordinate registers. -/
theorem exec_withReading {x y : Reg} (hx : x ≠ VF) (hy : y ≠ VF) (n : Nibble) (s : State) (reading : VfRead) :
    ∀ i ∈ [Instr.addReg x y, .subReg x y, .shrReg x y, .subnReg x y, .shlReg x y, .drw x y n],
      ∃ t, exec i s = .next t ∧ exec i (s.withReading reading) = .next (t.withReading reading) := by
  have hflagged flag op := congrArg (Host.Outcome.next (φ := Fault) (ρ := Refusal))
    (s.flagged_withReading hx hy flag op reading)
  have hdrawn := congrArg (Host.Outcome.next (φ := Fault) (ρ := Refusal)) (State.drawBits_withReading (s := s.setFlag false)
    (State.getV_setV_ne _ _ hx) (State.getV_setV_ne _ _ hy) hx hy (spriteBits n.toNat) reading)
  simp only [List.forall_mem_cons, List.not_mem_nil, false_imp_iff, implies_true, and_true]
  exact ⟨⟨_, exec_addReg .., hflagged ..⟩, ⟨_, exec_subReg .., hflagged ..⟩, ⟨_, exec_shrReg .., hflagged ..⟩,
    ⟨_, exec_subnReg .., hflagged ..⟩, ⟨_, exec_shlReg .., hflagged ..⟩, ⟨_, exec_drw .., hdrawn⟩⟩

/-- Settles O29: the answers differ in the parameter alone, which the instruction keeps. -/
theorem vfReadUnobservable : Obligations.VfReadUnobservable := by
  intro x y n s reading hx hy i hi
  obtain ⟨t, h, hreading⟩ := exec_withReading hx hy n s reading i hi
  have hparams : t.params = s.params := (Keeps.of_exec h).params
  refine ⟨t, h, hreading.trans ?_⟩
  rw [State.withReading, hparams]

end Sys2Proof.Machine

/-! PROOFS. What a draw with fixed coordinates does to the display (44_display.md): the sprite's pixels flip once each. -/

namespace Sys2Proof.Machine

/-! ## Flips of disjoint pixels add up -/

/-- `b` is `a` with the pixels of `hit` flipped: the collision flag is raised by a pixel that was set, should_redraw by any. -/
structure Flipped (hit : Col → Row → Prop) (a b : DrawAcc) : Prop where
  px_hit  : ∀ c r, hit c r → b.px c r = !a.px c r
  px_miss : ∀ c r, ¬ hit c r → b.px c r = a.px c r
  flag    : b.flag = true ↔ a.flag = true ∨ ∃ c r, hit c r ∧ a.px c r = true
  redraw  : b.redraw = true ↔ a.redraw = true ∨ ∃ c r, hit c r

theorem Flipped.refl (a : DrawAcc) : Flipped (fun _ _ => False) a a := by
  constructor <;> simp

theorem Flipped.trans {hit hit' : Col → Row → Prop} {a b c : DrawAcc} (h : Flipped hit a b) (h' : Flipped hit' b c)
    (hdisjoint : ∀ col row, hit col row → ¬ hit' col row) : Flipped (fun col row => hit col row ∨ hit' col row) a c where
  px_hit col row := by
    rintro (hp | hp')
    · rw [h'.px_miss _ _ (hdisjoint _ _ hp), h.px_hit _ _ hp]
    · rw [h'.px_hit _ _ hp', h.px_miss _ _ fun hp => hdisjoint _ _ hp hp']
  px_miss col row hp := by
    rw [h'.px_miss _ _ fun hp' => hp (.inr hp'), h.px_miss _ _ fun hp' => hp (.inl hp')]
  flag := by
    have hset : ∀ col row, hit' col row ∧ b.px col row = true ↔ hit' col row ∧ a.px col row = true := fun col row =>
      and_congr_right fun hp' => by rw [h.px_miss _ _ fun hp => hdisjoint _ _ hp hp']
    simp only [h'.flag, h.flag, hset, or_and_right, exists_or, or_assoc]
  redraw := by simp only [h'.redraw, h.redraw, exists_or, or_assoc]

theorem flipped_flip (a : DrawAcc) (c : Col) (r : Row) (bit : Bool) :
    Flipped (fun c' r' => c' = c ∧ r' = r ∧ bit = true) a (a.flip c r bit) := by
  constructor
  · rintro _ _ ⟨rfl, rfl, rfl⟩
    simp [DrawAcc.flip]
  · intro c' r' hmiss
    by_cases hpos : c' = c ∧ r' = r
    · obtain ⟨rfl, rfl⟩ := hpos
      have hbit : bit = false := by simpa using hmiss
      simp [DrawAcc.flip, hbit]
    · simp [DrawAcc.flip, hpos]
  · cases bit <;> simp [DrawAcc.flip]
  · cases bit <;> simp [DrawAcc.flip]

/-! ## The loops of R87 with fixed coordinates, as one fold over the bits of the sprite -/

/-- The body of the loops, for the bit `p` of the sprite of `s` at column `X`, row `Y`. -/
def State.flipBit (s : State) (X Y : Byte) (acc : DrawAcc) (p : Nat × Nat) : DrawAcc :=
  acc.flip (colAt X p.2) (rowAt Y p.1) ((s.readMem (s.i.toNat + p.1)).getLsbD (7 - p.2))

/-- The bit `p` of that sprite is set and lies on pixel (c, r). -/
def State.bitFlips (s : State) (X Y : Byte) (p : Nat × Nat) (c : Col) (r : Row) : Prop :=
  c = colAt X p.2 ∧ r = rowAt Y p.1 ∧ (s.readMem (s.i.toNat + p.1)).getLsbD (7 - p.2) = true

theorem State.spriteFlips_iff (s : State) (X Y : Byte) (n : Nat) (c : Col) (r : Row) :
    s.spriteFlips X Y n c r ↔ ∃ p ∈ spriteBits n, s.bitFlips X Y p c r := by
  constructor
  · rintro ⟨row, k, hrow, hk, hc, hr, hbit⟩
    exact ⟨(row, k), (mem_spriteBits ..).2 ⟨hrow, hk⟩, Fin.ext hc, Fin.ext hr, hbit⟩
  · rintro ⟨⟨row, k⟩, hp, rfl, rfl, hbit⟩
    obtain ⟨hrow, hk⟩ := (mem_spriteBits ..).1 hp
    exact ⟨row, k, hrow, hk, rfl, rfl, hbit⟩

theorem flipped_foldl_flipBit (s : State) (X Y : Byte) {ps : List (Nat × Nat)}
    (hps : ps.Pairwise fun p q => ∀ c r, s.bitFlips X Y p c r → ¬ s.bitFlips X Y q c r) (acc : DrawAcc) :
    Flipped (fun c r => ∃ p ∈ ps, s.bitFlips X Y p c r) acc (ps.foldl (s.flipBit X Y) acc) := by
  induction ps generalizing acc with
  | nil => simpa using Flipped.refl acc
  | cons p ps ih =>
    obtain ⟨hp, hps⟩ := List.pairwise_cons.1 hps
    simp only [List.exists_mem_cons_iff, List.foldl_cons]
    exact (flipped_flip ..).trans (ih hps _) fun c r hflip ⟨q, hq, hflip'⟩ => hp q hq c r hflip hflip'

theorem nodup_spriteBits (n : Nat) : (spriteBits n).Nodup :=
  List.nodup_range.product List.nodup_range

/-- A sprite is at most 15 rows by 8 columns, smaller than the display, so that it does not wrap onto itself. -/
theorem pairwise_spriteBits (s : State) (X Y : Byte) {n : Nat} (hn : n < 16) :
    (spriteBits n).Pairwise fun p q => ∀ c r, s.bitFlips X Y p c r → ¬ s.bitFlips X Y q c r := by
  refine (nodup_spriteBits n).pairwise_of_forall_ne fun p hp q hq hne c r hflip hflip' => hne ?_
  obtain ⟨hrow, hk⟩ := (mem_spriteBits n p).1 hp
  obtain ⟨hrow', hk'⟩ := (mem_spriteBits n q).1 hq
  obtain ⟨hc, hr, -⟩ := hflip
  obtain ⟨hc', hr', -⟩ := hflip'
  have hcol := Fin.ext_iff.1 (hc.symm.trans hc')
  have hrows := Fin.ext_iff.1 (hr.symm.trans hr')
  simp only [colAt, rowAt] at hcol hrows
  exact Prod.ext (by omega) (by omega)

theorem flipped_sprite (s : State) (X Y : Byte) (n : Nibble) (acc : DrawAcc) :
    Flipped (s.spriteFlips X Y n.toNat) acc ((spriteBits n.toNat).foldl (s.flipBit X Y) acc) := by
  have hflips : s.spriteFlips X Y n.toNat = fun c r => ∃ p ∈ spriteBits n.toNat, s.bitFlips X Y p c r :=
    funext fun c => funext fun r => propext (s.spriteFlips_iff ..)
  rw [hflips]
  exact flipped_foldl_flipBit s X Y (pairwise_spriteBits s X Y n.isLt) acc

/-! ## The model's loop with fixed coordinates -/

theorem State.drawCoord_of_fixed {s : State} {r : Reg} (h : s.params.vfRead = .snapshot ∨ r ≠ VF) (flag : Bool) :
    s.drawCoord r flag = s.getV r :=
  if_neg fun ⟨hseq, hr⟩ => h.elim (fun hsnap => by simp [hseq] at hsnap) fun hne => hne hr

theorem Drawn.foldl_drawBit {s t : State} {acc : DrawAcc} {x y : Reg} (hx : s.params.vfRead = .snapshot ∨ x ≠ VF)
    (hy : s.params.vfRead = .snapshot ∨ y ≠ VF) (ps : List (Nat × Nat)) (h : Drawn s t acc) :
    Drawn s (ps.foldl (State.drawBit x y (s.getV x) (s.getV y)) t)
      (ps.foldl (s.flipBit (s.getV x) (s.getV y)) acc) := by
  induction ps generalizing t acc with
  | nil => exact h
  | cons p ps ih =>
    have hturn := h.drawBit x y p.1 p.2
    rw [State.drawCoord_of_fixed hx, State.drawCoord_of_fixed hy] at hturn
    exact ih hturn

theorem flagByte_eq_one_iff (b : Bool) : flagByte b = 1 ↔ b = true := by
  cases b <;> decide

theorem flagByte_eq_one_or_zero (b : Bool) : flagByte b = 1 ∨ flagByte b = 0 := by
  cases b <;> decide

/-- Settles O38: the draw is the fold, and the fold flips the sprite's pixels. -/
theorem drawXorsSprite : Obligations.DrawXorsSprite := by
  intro x y n s hfixed
  have hdrawn := (drawn_start s).foldl_drawBit (hfixed.imp_right And.left) (hfixed.imp_right And.right) (spriteBits n.toNat)
  have hflipped := flipped_sprite s (s.getV x) (s.getV y) n { px := s.pixel, flag := false, redraw := s.shouldRedraw }
  refine ⟨_, exec_drw x y n s, fun c r hflip => ?_, fun c r hflip => ?_, ?_, ?_, ?_, hdrawn.frame⟩
  · rw [hdrawn.pixel, hflipped.px_hit c r hflip]
  · rw [hdrawn.pixel, hflipped.px_miss c r hflip]
  · rw [hdrawn.flag]
    exact flagByte_eq_one_or_zero _
  · rw [hdrawn.flag, flagByte_eq_one_iff, hflipped.flag]
    simp
  · rw [hdrawn.redraw, hflipped.redraw]

/-! ## Drawing twice -/

/-- A draw moves neither the sprite nor, away from `VF`, its place. -/
theorem Frame.spriteFlips_iff {s t : State} (h : Frame drawTouches s t) {x y : Reg} (hx : x ≠ VF) (hy : y ≠ VF) (n : Nat)
    (c : Col) (r : Row) : t.spriteFlips (t.getV x) (t.getV y) n c r ↔ s.spriteFlips (s.getV x) (s.getV y) n c r := by
  have hX : t.getV x = s.getV x := h.regs x (by simpa [drawTouches] using hx)
  have hY : t.getV y = s.getV y := h.regs y (by simpa [drawTouches] using hy)
  have hmem : ∀ a, t.readMem a = s.readMem a := fun a => h.mem a List.not_mem_nil
  simp only [State.spriteFlips, hX, hY, hmem, h.index rfl]

/-- Settles O39: both draws flip the same pixels, and a pixel flipped twice is as it was. -/
theorem drawTwiceRestores : Obligations.DrawTwiceRestores := by
  intro x y n s hx hy
  obtain ⟨t, ht, hflip, hkeep, -, -, -, hframe⟩ := drawXorsSprite x y n s (.inr ⟨hx, hy⟩)
  obtain ⟨u, hu, hflip', hkeep', -, hflag, -, -⟩ := drawXorsSprite x y n t (.inr ⟨hx, hy⟩)
  have hsame := Frame.spriteFlips_iff hframe hx hy n.toNat
  simp only [hsame] at hflip' hkeep' hflag
  refine ⟨t, u, ht, hu, fun c r => ?_, hflag⟩
  by_cases hcovered : s.spriteFlips (s.getV x) (s.getV y) n.toNat c r
  · rw [hflip' c r hcovered, hflip c r hcovered, Bool.not_not]
  · rw [hkeep' c r hcovered, hkeep c r hcovered]

end Sys2Proof.Machine
